-- ==== Sys2Proof/Word.lean ====
section
/-! DEFINITION. The words of the block: the byte of the frame buffer and of the ROM, the 16-bit operand
field, and the 96-bit command word (20_memory.md R42, 30_encoding.md R60). -/

namespace Sys2Proof

/-- One byte: of the waveform ROM, of the frame buffer, of the stream to the serial interface (R40, R42). -/
abbrev Byte := BitVec 8

/-- One 16-bit operand field of a command word: A, B, CR, CG or CB (R60). -/
abbrev Half := BitVec 16

/-- A command word, `cmd_word[95:0]` (R60). -/
abbrev CmdWord := BitVec 96

end Sys2Proof
end

