-- ==== Sys2Proof/Syntax.lean ====
section
/-! DEFINITION. The five commands (one constructor per row of spec/opcode_table.json), the reasons a word is
illegal, and the assembler's source forms (30_encoding.md R60 to R68). -/

namespace Sys2Proof

/-- The block's command set (R2, R63). The operand fields stay the 16-bit fields of the word (R61): frameSize,
index, start and end are read unsigned, the channels as two's complement (R62), where they are used. -/
inductive Instr where
  /-- CONSTRUCT: F1 is AUTODRAW, A is frameSize (R90). -/
  | construct (autoDraw : Bool) (frameSize : Half)
  /-- SET: A is the pixel index; the channels stand in the input order red, green, blue (R100). -/
  | set (index red green blue : Half)
  /-- FILL: F1 is HAS_START, F0 is HAS_END, A is start, B is end (R103). -/
  | fill (hasStart hasEnd : Bool) (start stop red green blue : Half)
  /-- DRAW (R120). -/
  | draw
  /-- CONFIGURE (R124). -/
  | configure
deriving DecidableEq, Repr

/-- Why the decoder refuses a word (R65). The machine raises ILLEGAL_COMMAND for each of them. -/
inductive Illegal where
  /-- OP is 0x0 or 0x6 to 0xF (R63). -/
  | reservedOpcode
  /-- A field that R64 marks "0" for this OP is nonzero. -/
  | nonzeroField
deriving DecidableEq, Repr

/-- The assembler's source forms of R67 and the pseudo-instruction CLEAR of R68, their operands as written. -/
inductive AsmCommand where
  /-- `CONSTRUCT n` or, with the flag, `CONSTRUCT n, noautodraw`. -/
  | construct (n : Int) (noAutoDraw : Bool)
  /-- `SET i, r, g, b`. -/
  | set (i r g b : Int)
  /-- The four forms of `FILL r, g, b`. -/
  | fill (r g b : Int) (start stop : Option Int)
  /-- `DRAW`. -/
  | draw
  /-- `CONFIGURE`. -/
  | configure
  /-- `CLEAR` (R68). -/
  | clear
deriving DecidableEq, Repr

end Sys2Proof
end

