-- ==== Sys2Proof/WellFormed.lean ====
section
/-! DEFINITION. Which terms of `Instr` stand for a legal command word (30_encoding.md R64, R65). -/

namespace Sys2Proof

/-- R64: FILL's start is 0 when HAS_START = 0, and its end is 0 when HAS_END = 0. Every other field that must
be zero has no place in the syntax, so every other term is well formed. -/
def Instr.wf : Instr → Bool
  | .construct _ _ => true
  | .set _ _ _ _ => true
  | .fill hasStart hasEnd start stop _ _ _ => (hasStart || start == 0) && (hasEnd || stop == 0)
  | .draw => true
  | .configure => true

end Sys2Proof
end

