-- ==== Sys2Proof/Decode.lean ====
section
/-! DEFINITION. The decoder, total on every 96-bit word (30_encoding.md R61 to R66), the encoder (R69), and the
assembler (R67, R68). -/

namespace Sys2Proof

/-! ### Field extraction (R61) -/

/-- OP = w[95:92]. -/
def fieldOp (w : CmdWord) : BitVec 4 := w.extractLsb' 92 4
/-- F1 = w[91]. -/
def fieldF1 (w : CmdWord) : BitVec 1 := w.extractLsb' 91 1
/-- F0 = w[90]. -/
def fieldF0 (w : CmdWord) : BitVec 1 := w.extractLsb' 90 1
/-- RSV = w[89:80]. -/
def fieldRsv (w : CmdWord) : BitVec 10 := w.extractLsb' 80 10
/-- A = w[79:64]. -/
def fieldA (w : CmdWord) : Half := w.extractLsb' 64 16
/-- B = w[63:48]. -/
def fieldB (w : CmdWord) : Half := w.extractLsb' 48 16
/-- CR = w[47:32]. -/
def fieldCR (w : CmdWord) : Half := w.extractLsb' 32 16
/-- CG = w[31:16]. -/
def fieldCG (w : CmdWord) : Half := w.extractLsb' 16 16
/-- CB = w[15:0]. -/
def fieldCB (w : CmdWord) : Half := w.extractLsb' 0 16

/-- A one-bit field as a flag. -/
def flagOf (b : BitVec 1) : Bool := b == 1#1

/-- The three channel fields are zero, as R64 asks of CONSTRUCT, DRAW and CONFIGURE. -/
def channelsZero (w : CmdWord) : Bool := fieldCR w == 0 && fieldCG w == 0 && fieldCB w == 0

/-- R64, the row CONSTRUCT: F0, B and the channels are zero. -/
def decodeConstruct (w : CmdWord) : Except Illegal Instr :=
  if fieldF0 w == 0 && fieldB w == 0 && channelsZero w then
    .ok (.construct (flagOf (fieldF1 w)) (fieldA w))
  else .error .nonzeroField

/-- R64, the row SET: F1, F0 and B are zero. -/
def decodeSet (w : CmdWord) : Except Illegal Instr :=
  if fieldF1 w == 0 && fieldF0 w == 0 && fieldB w == 0 then
    .ok (.set (fieldA w) (fieldCR w) (fieldCG w) (fieldCB w))
  else .error .nonzeroField

/-- R64, the row FILL, and R65: A is zero when HAS_START = 0, B is zero when HAS_END = 0. -/
def decodeFill (w : CmdWord) : Except Illegal Instr :=
  let i := Instr.fill (flagOf (fieldF1 w)) (flagOf (fieldF0 w)) (fieldA w) (fieldB w)
    (fieldCR w) (fieldCG w) (fieldCB w)
  if i.wf then .ok i else .error .nonzeroField

/-- R64, the rows DRAW and CONFIGURE: every field after OP is zero. -/
def decodeBare (i : Instr) (w : CmdWord) : Except Illegal Instr :=
  if fieldF1 w == 0 && fieldF0 w == 0 && fieldA w == 0 && fieldB w == 0 && channelsZero w then .ok i
  else .error .nonzeroField

/-- The decoder (R63 to R65): every word is one of the five commands, or illegal by name. -/
def decode (w : CmdWord) : Except Illegal Instr :=
  if fieldOp w = 0x1 ∨ fieldOp w = 0x2 ∨ fieldOp w = 0x3 ∨ fieldOp w = 0x4 ∨ fieldOp w = 0x5 then
    if fieldRsv w ≠ 0 then .error .nonzeroField
    else if fieldOp w = 0x1 then decodeConstruct w
    else if fieldOp w = 0x2 then decodeSet w
    else if fieldOp w = 0x3 then decodeFill w
    else if fieldOp w = 0x4 then decodeBare .draw w
    else decodeBare .configure w
  else .error .reservedOpcode

/-- The decoder as the opcode table numbers a row's bits. The one word of a command is 96 bits, presented in
parallel (R47, R66), so the table's number is the command word itself. -/
def decodeTableWord (nbits w : Nat) : Option Instr :=
  (decode (BitVec.ofNat 96 (w % 2 ^ nbits))).toOption

/-! ### The encoder (R69) -/

/-- R60's fields put in place, OP at the top; RSV is always zero. -/
def packWord (op : BitVec 4) (f1 f0 : Bool) (a b cr cg cb : Half) : CmdWord :=
  (op ++ BitVec.ofBool f1 ++ BitVec.ofBool f0 ++ 0#10 ++ a ++ b ++ cr ++ cg ++ cb : BitVec 96)

/-- The OP of each command (R63). -/
def Instr.opcode : Instr → BitVec 4
  | .construct _ _ => 0x1
  | .set _ _ _ _ => 0x2
  | .fill _ _ _ _ _ _ _ => 0x3
  | .draw => 0x4
  | .configure => 0x5

/-- The word of a command (R69). -/
def encode (i : Instr) : CmdWord :=
  match i with
  | .construct autoDraw n => packWord i.opcode autoDraw false n 0 0 0 0
  | .set index red green blue => packWord i.opcode false false index 0 red green blue
  | .fill hasStart hasEnd start stop red green blue =>
    packWord i.opcode hasStart hasEnd start stop red green blue
  | .draw => packWord i.opcode false false 0 0 0 0 0
  | .configure => packWord i.opcode false false 0 0 0 0 0

/-! ### The assembler (R67, R68) -/

/-- A frame size as the assembler takes it: any value the unsigned field A holds. R67 states the ranges of
index and channel operands only. Log entry 9. -/
def asmFrameSize (x : Int) : Option Half :=
  if 0 ≤ x ∧ x ≤ 65535 then some (BitVec.ofInt 16 x) else none

/-- An index, start or end operand: −32768 to 65535, a negative one as 16-bit two's complement (R67). -/
def asmIndex (x : Int) : Option Half :=
  if -32768 ≤ x ∧ x ≤ 65535 then some (BitVec.ofInt 16 x) else none

/-- A channel operand: −32768 to 32767 (R67). -/
def asmChannel (x : Int) : Option Half :=
  if -32768 ≤ x ∧ x ≤ 32767 then some (BitVec.ofInt 16 x) else none

/-- An optional index operand: absent, the field is 0 and its flag 0. -/
def asmOptIndex : Option Int → Option (Bool × Half)
  | none => some (false, 0)
  | some x => (asmIndex x).map fun v => (true, v)

/-- The command a source form stands for, or none where the assembler refuses an operand (R67). CLEAR is
`FILL 0, 0, 0` (R68). -/
def assemble : AsmCommand → Option Instr
  | .construct n noAutoDraw => (asmFrameSize n).map fun v => .construct (!noAutoDraw) v
  | .set i r g b => do
    return .set (← asmIndex i) (← asmChannel r) (← asmChannel g) (← asmChannel b)
  | .fill r g b start stop => do
    let (hasStart, startField) ← asmOptIndex start
    let (hasEnd, endField) ← asmOptIndex stop
    return .fill hasStart hasEnd startField endField (← asmChannel r) (← asmChannel g) (← asmChannel b)
  | .draw => some .draw
  | .configure => some .configure
  | .clear => some (.fill false false 0 0 0 0 0)

/-! ### The assembler's text (R67; log entry 9) -/

/-- The value of one digit in base 10 or 16. -/
def asmDigit (base : Nat) (c : Char) : Option Nat :=
  let n := c.toNat
  let d := if 48 ≤ n ∧ n ≤ 57 then n - 48
    else if 97 ≤ n ∧ n ≤ 102 then n - 87
    else if 65 ≤ n ∧ n ≤ 70 then n - 55
    else 16
  if d < base then some d else none

/-- A nonempty run of digits after those already read. -/
def asmDigits (base : Nat) : List Char → Nat → Option Nat
  | [], acc => some acc
  | c :: cs, acc => (asmDigit base c).bind fun d => asmDigits base cs (base * acc + d)

/-- An unsigned number: decimal, or hexadecimal with `0x`. -/
def asmNat : List Char → Option Nat
  | [] => none
  | '0' :: 'x' :: [] => none
  | '0' :: 'x' :: c :: cs => asmDigits 16 (c :: cs) 0
  | c :: cs => asmDigits 10 (c :: cs) 0

/-- A number with an optional minus sign. -/
def asmInt : List Char → Option Int
  | '-' :: cs => (asmNat cs).map fun n => -(n : Int)
  | cs => (asmNat cs).map fun n => (n : Int)

/-- A piece without the blanks around it. -/
def asmTrim (p : List Char) : List Char :=
  ((p.dropWhile (· == ' ')).reverse.dropWhile (· == ' ')).reverse

/-- The pieces between commas. -/
def asmPieces : List Char → List (List Char)
  | [] => [[]]
  | c :: cs =>
    if c = ',' then [] :: asmPieces cs
    else
      match asmPieces cs with
      | [] => [[c]]
      | p :: ps => (c :: p) :: ps

/-- The operands of a line: the pieces between commas, trimmed. -/
def asmOperands (rest : List Char) : List (List Char) := (asmPieces rest).map asmTrim

/-- The leading word of a line and the rest after the blank that ends it. -/
def asmSplit : List Char → List Char × List Char
  | [] => ([], [])
  | ' ' :: cs => ([], cs)
  | c :: cs => ((c :: (asmSplit cs).1), (asmSplit cs).2)

/-- The operand `name=number`. -/
def asmNamed (name : String) (p : List Char) : Option Int :=
  if p.take (name.toList.length) = name.toList then asmInt (p.drop name.toList.length) else none

/-- The operands of FILL in the four forms of R67. -/
def asmFill : List (List Char) → Option AsmCommand
  | [r, g, b] => do return .fill (← asmInt r) (← asmInt g) (← asmInt b) none none
  | [r, g, b, x] =>
    match asmNamed "start=" x, asmNamed "end=" x with
    | some v, _ => do return .fill (← asmInt r) (← asmInt g) (← asmInt b) (some v) none
    | none, some v => do return .fill (← asmInt r) (← asmInt g) (← asmInt b) none (some v)
    | none, none => none
  | [r, g, b, x, y] => do
    return .fill (← asmInt r) (← asmInt g) (← asmInt b) (some (← asmInt x)) (some (← asmInt y))
  | _ => none

/-- One source line of R67's syntax. -/
def parseLine (line : List Char) : Option AsmCommand :=
  let (word, rest) := asmSplit line
  let operands := asmOperands rest
  if word = "CONSTRUCT".toList then
    match operands with
    | [n] => (asmInt n).map fun v => .construct v false
    | [n, o] => if o = "noautodraw".toList then (asmInt n).map fun v => .construct v true else none
    | _ => none
  else if word = "SET".toList then
    match operands with
    | [i, r, g, b] => do return .set (← asmInt i) (← asmInt r) (← asmInt g) (← asmInt b)
    | _ => none
  else if word = "FILL".toList then asmFill operands
  else if operands ≠ [[]] then none
  else if word = "DRAW".toList then some .draw
  else if word = "CONFIGURE".toList then some .configure
  else if word = "CLEAR".toList then some .clear
  else none

/-- From a source line to its command word (R67, R69). -/
def assembleLine (line : List Char) : Option CmdWord :=
  (parseLine line).bind fun a => (assemble a).map encode

end Sys2Proof
end

