-- ==== Sys2Proof/Config.lean ====
section
/-! DEFINITION. The implementation parameters of 00_scope.md R6 and R7 as plain data, the constants with no
body that stand for the values the spec leaves OPEN, and the free value of SEQ_ADDR between commands (R22). -/

namespace Sys2Proof

/-- The OPEN parameters of R6, which R7 asks a model to take as arguments. The other rows of R6's table are
fixed by the source: 256 table entries, 8 bytes a channel, 3 channels, 24 bytes a pixel, one trailer byte
0x00, MSB first, 16-bit signed channel inputs. -/
structure Config where
  /-- `ZERO_BYTE`: the waveform byte of a 0 bit (R80). -/
  zeroByte : Byte
  /-- `ONE_BYTE`: the waveform byte of a 1 bit (R80). No rule asks it to differ from `ZERO_BYTE`. -/
  oneByte : Byte
  /-- `SPI_CLOCK_KHZ`, a natural number, carried by every Configure request (R124). -/
  spiClockKhz : Nat
  /-- `MAX_PIXELS`, 1 ≤ MAX_PIXELS ≤ 65535 (`Config.wf`). -/
  maxPixels : Nat
  /-- `EXT_CONFIGURED`: whether the serial interface was configured outside the block (R123). -/
  extConfigured : Bool
deriving DecidableEq, Repr

/-- R6: 1 ≤ MAX_PIXELS ≤ 65535, the only limit the spec sets on a parameter. -/
def Config.wf (c : Config) : Bool := decide (1 ≤ c.maxPixels) && decide (c.maxPixels ≤ 65535)

/-- `ADDR_W` (R6): the least w with 2^w ≥ 24·MAX_PIXELS + 1. For MAX_PIXELS ≥ 1 that is one more than the
base-2 logarithm of 24·MAX_PIXELS (`Laws.addrWidth_least`). -/
def Config.addrWidth (c : Config) : Nat := Nat.log2 (24 * c.maxPixels) + 1

/-- `L` (R6): the buffer length of n pixels, 24·n + 1 bytes. -/
def bufferLength (n : Nat) : Nat := 24 * n + 1

/-- OPEN (R6, 92 D3): no body, so nothing can be proved of its value. -/
opaque Config.openZeroByte : Byte
/-- OPEN (R6, 92 D3). -/
opaque Config.openOneByte : Byte
/-- OPEN (R6, 92 D4). -/
opaque Config.openSpiClockKhz : Nat
/-- OPEN (R6, 92 D5), before R6's limits are applied. -/
opaque Config.openMaxPixels : Nat
/-- OPEN (R6, 92 D21). -/
opaque Config.openExtConfigured : Bool

/-- The parameters of the block that `State.reset` describes. Every field is open; `max` and `min` keep
MAX_PIXELS within R6's limits and reach every value within them. Log entry 1. -/
def Config.board : Config where
  zeroByte := Config.openZeroByte
  oneByte := Config.openOneByte
  spiClockKhz := Config.openSpiClockKhz
  maxPixels := max 1 (min 65535 Config.openMaxPixels)
  extConfigured := Config.openExtConfigured

/-- The free value SEQ_ADDR holds after a command has ended (R22: "Its value between commands is
unspecified"; 93 U14) and while a configure request waits, where R22 gives none. It is applied to a counter, so that
each time it is a fresh one. Log entry 4. -/
opaque Config.freeSeqAddr : Nat → BitVec 21

end Sys2Proof
end

