-- ==== Sys2Proof/Machine/State.lean ====
section
/-! DEFINITION. The state of the block as plain data (10_state.md R20 to R35), the events and responses it gives
(00_scope.md R9), its inputs, the reasons a step can stop, and the state after power-on reset (R34, R160). -/

namespace Sys2Proof.Machine

/-- The fault causes of 60_exceptions.md R140; codes 7 to 15 are never produced. -/
inductive Cause where
  /-- 0, NONE: success; not a fault. -/
  | none
  /-- 1, ILLEGAL_COMMAND. -/
  | illegalCommand
  /-- 2, NOT_CONSTRUCTED. -/
  | notConstructed
  /-- 3, ALREADY_CONSTRUCTED. -/
  | alreadyConstructed
  /-- 4, BAD_FRAMESIZE. -/
  | badFrameSize
  /-- 5, INDEX_RANGE. -/
  | indexRange
  /-- 6, FILL_RANGE. -/
  | fillRange
deriving DecidableEq, Repr

/-- A color channel; a diagnostic names it by its place in the input order (R9, R86). -/
inductive Channel where
  | red
  | green
  | blue
deriving DecidableEq, Repr

/-- The bit order a configure request carries. The block only ever asks for MSB first (R45, R124). -/
inductive BitOrder where
  | msbFirst
  | lsbFirst
deriving DecidableEq, Repr

/-- One event of the output trace (R9, R29). -/
inductive Event where
  /-- `Configure(order, clock)`: one accepted configure request. -/
  | configure (order : BitOrder) (clockKhz : Nat)
  /-- `Write(bytes)`: one whole frame, accepted to its last byte. -/
  | write (bytes : List Byte)
  /-- `Diag(channel, value)`: one coerced channel, with the offending input as given (read signed). -/
  | diag (channel : Channel) (value : Half)
deriving DecidableEq, Repr

/-- The response to one command (R9): `rsp_status` by its name, and `rsp_diag`. -/
structure Response where
  status : Cause
  diag : BitVec 3
deriving DecidableEq, Repr

/-- What the serial interface is about to accept (R128): an input of the machine, not its state. A handshake is
one configure request or one frame byte. Log entry 3. -/
structure SerialInput where
  /-- For each coming step in which a command waits on the interface, oldest first: how many handshakes the
  interface accepts in it at most. -/
  grants : List Nat
  /-- In every waiting step after those: true, it accepts all it is offered; false, none (R122's hang). -/
  fair : Bool
deriving DecidableEq, Repr

/-- Frame-buffer bytes by address, addresses rising (`Memory.wf`). An address that is not listed has no value
(R30: before CONSTRUCT the buffer has none). -/
abbrev Memory := List Host.Cell

/-- The whole machine. INVENTORY.md lists each field with its rule and reset value. The waveform ROM (R20 (a)) is
constant: it is the definition `romByte` over `params`, and no field. -/
structure State where
  /-- The implementation parameters (R6, R7). No step changes them. Log entry 1. -/
  params : Config
  /-- CONSTRUCTED, STATUS bit 0 (R25). -/
  constructed : Bool
  /-- FRAMESIZE, the register N (R23). -/
  frameSize : Half
  /-- `Buf`, the frame buffer (R30). -/
  buf : Memory
  /-- CONFIGURED, STATUS bit 1 (R26). -/
  configured : Bool
  /-- DRAWN, STATUS bit 2 (R26). -/
  drawn : Bool
  /-- FAULT, STATUS bit 3, sticky (R28). -/
  fault : Bool
  /-- CAUSE, STATUS bits 7:4 (R28). -/
  cause : Cause
  /-- SEQ_ADDR, the address sequencer register (R22). ADDR_W is at most 21 (R6); a value stays below
  2^ADDR_W (`RunInv`). -/
  seqAddr : BitVec 21
  /-- The command the block has accepted and not yet answered, with `cmd_ready` low (R9, R122). -/
  inFlight : Option CmdWord
  /-- How many handshakes of that command the serial interface has accepted (R122, R126). -/
  accepted : Nat
  /-- The response given last, until the next command's replaces it (R33). Log entry 10. -/
  response : Option Response
  /-- The output trace, oldest event first (R29). Model-only. -/
  trace : List Event
  /-- CALLER_ERR, the ghost flag (R27). Model-only. -/
  callerErr : Bool
  /-- How many free values of SEQ_ADDR have been used. Model-only; log entry 4. -/
  freeCount : Nat
  /-- Input: `rst` is asserted (R9, R160). Log entry 6. -/
  rst : Bool
  /-- Input: the commands each host agent has yet to present, oldest first (R9, R152). Log entry 2. -/
  streams : List (List CmdWord)
  /-- Input: what the serial interface will accept (R128). -/
  serial : SerialInput
deriving DecidableEq, Repr

/-- Why the machine stops. No command of the block stops it (R142: "a fault does not stop the block"). -/
inductive Fault where
  /-- DRAW found an address of Buf[0 .. L−1] that holds no value. Raised by `execDraw` only. No state that
  meets `RunInv` raises it (R30: the buffer exists while CONSTRUCTED = 1). Safe. -/
  | bufferByteAbsent
deriving DecidableEq, Repr

/-- Why the machine has no meaning for a step. -/
inductive Refusal where
  /-- The instruction has no meaning yet. Raised by no arm: every command is modelled. Safe. -/
  | notModelled (mnemonic : String)
  /-- Two host agents present a command to this one instance at once. Raised by `step` only (R152: "The model
  has no meaning for two commands to one instance at once, and refuses such a launch"). Safe. -/
  | concurrentCommands
deriving DecidableEq, Repr

/-- The state right after power-on reset (R34). The values R34 leaves unspecified or does not name are model
choices: SEQ_ADDR (log entry 4), the inputs (log entries 2, 3 and 6), the parameters (log entry 1). -/
def State.reset : State where
  params := Config.board
  constructed := false
  frameSize := 0
  buf := []
  configured := false
  drawn := false
  fault := false
  cause := .none
  seqAddr := 0
  inFlight := none
  accepted := 0
  response := none
  trace := []
  callerErr := false
  freeCount := 0
  rst := false
  streams := []
  serial := { grants := [], fair := true }

end Sys2Proof.Machine
end

