-- ==== Sys2Proof/Machine/Flags.lean ====
section
/-! DEFINITION. The STATUS register and its codes (10_state.md R24, 60_exceptions.md R140), and when a use of the
block is a caller error (10_state.md R27). -/

namespace Sys2Proof.Machine

/-- The cause codes (R140). -/
def Cause.code : Cause → BitVec 4
  | .none => 0
  | .illegalCommand => 1
  | .notConstructed => 2
  | .alreadyConstructed => 3
  | .badFrameSize => 4
  | .indexRange => 5
  | .fillRange => 6

/-- `diag_channel` (R9): the input channel index. -/
def Channel.code : Channel → BitVec 2
  | .red => 0
  | .green => 1
  | .blue => 2

/-- STATUS as its port shows it (R24): the reserved bits 15:8 read 0, then CAUSE, FAULT, DRAWN, CONFIGURED,
CONSTRUCTED down to bit 0. -/
def State.statusWord (s : State) : BitVec 16 :=
  (0#8 ++ s.cause.code ++ BitVec.ofBool s.fault ++ BitVec.ofBool s.drawn ++ BitVec.ofBool s.configured ++
    BitVec.ofBool s.constructed : BitVec 16)

/-- DRAW is a caller error here (R27 (a), R123). -/
def State.drawIsCallerError (s : State) : Bool := !s.configured && !s.params.extConfigured

/-- CONFIGURE is a caller error here (R27 (b) and (c), R125). -/
def State.configureIsCallerError (s : State) : Bool := s.configured || s.drawn

end Sys2Proof.Machine
end

