-- ==== Sys2Proof/Machine/Waveform.lean ====
section
/-! DEFINITION. The waveform ROM and the write expander's lookup (40_waveform_table.md R80 to R84, 20_memory.md
R41), and the LED and wire bits a byte stands for (20_memory.md R45, R46). -/

namespace Sys2Proof.Machine

/-- `Rom(v, i)` (R81): ONE_BYTE if v[7 − i] = 1, else ZERO_BYTE. The entry is 8 bits wide, so a lookup outside
0..255 cannot be written (R83). The ROM is this function of the parameters, not a field of State. Log entry 14. -/
def romByte (c : Config) (v : Byte) (i : Fin 8) : Byte :=
  if v.getLsbD (7 - i.val) then c.oneByte else c.zeroByte

/-- The ROM by its flat 11-bit address (R41): address a holds `Rom(a[10:3], a[2:0])`. -/
def romAt (c : Config) (a : BitVec 11) : Byte :=
  romByte c (a.extractLsb' 3 8) (a.extractLsb' 0 3).toFin

/-- `Wave(v)` (R81): the eight bytes of entry v, the byte of bit 7 first. -/
def wave (c : Config) (v : Byte) : List Byte := (List.finRange 8).map (romByte c v)

/-- The bits of a byte, most significant first (R45). -/
def bitsMsbFirst (b : Byte) : List Bool := (List.range 8).map fun i => b.getLsbD (7 - i)

/-- The waveform byte of one LED-protocol bit (R80, R127). -/
def bitByte (c : Config) (bit : Bool) : Byte := if bit then c.oneByte else c.zeroByte

/-- The LED-protocol bits of one pixel slot in wire order: G7..G0, R7..R0, B7..B0 (R46). -/
def ledBits (green red blue : Byte) : List Bool :=
  bitsMsbFirst green ++ bitsMsbFirst red ++ bitsMsbFirst blue

end Sys2Proof.Machine
end

