-- ==== Sys2Proof/Machine/Operands.lean ====
section
/-! DEFINITION. The operand forms: unsigned and signed fields (30_encoding.md R62), channel coercion
(40_waveform_table.md R85), the 24-byte block of a color (R88, R89), and FILL's range (42_pixel_writes.md R103,
R104). -/

namespace Sys2Proof.Machine

/-- `coerce(x)` (R85) of a signed 16-bit channel value: the value to store, and whether a diagnostic is due. -/
def coerce (x : Half) : Byte × Bool :=
  if 0 ≤ x.toInt ∧ x.toInt ≤ 255 then (x.setWidth 8, false) else (255, true)

/-- `Block(r, g, b)` (R88, R101): the waveforms of the coerced channels, green first, then red, then blue. -/
def block (c : Config) (red green blue : Half) : List Byte :=
  wave c (coerce green).1 ++ wave c (coerce red).1 ++ wave c (coerce blue).1

/-- The ROM-free expander (R89): byte k is chosen by bit 7 − (k mod 8) of channel k div 8. -/
def blockByteDirect (c : Config) (red green blue : Half) (k : Nat) : Byte :=
  let channel := if k / 8 = 0 then (coerce green).1 else if k / 8 = 1 then (coerce red).1
    else (coerce blue).1
  if channel.getLsbD (7 - k % 8) then c.oneByte else c.zeroByte

/-- The resolved start of a FILL (R103): 0 when HAS_START = 0. -/
def fillStart (hasStart : Bool) (start : Half) : Nat := if hasStart then start.toNat else 0

/-- The resolved end of a FILL (R103): `last_index`, N − 1, when HAS_END = 0. -/
def fillEnd (hasEnd : Bool) (stop : Half) (n : Nat) : Nat := if hasEnd then stop.toNat else n - 1

/-- `rsp_diag` of a pixel write (R87): red in bit 2, green in bit 1, blue in bit 0. -/
def rspDiag (red green blue : Half) : BitVec 3 :=
  BitVec.ofBool (coerce red).2 ++ BitVec.ofBool (coerce green).2 ++ BitVec.ofBool (coerce blue).2

/-- The diagnostics of a color (R86): one for each coerced channel, in the order red, green, blue. Log entry 11. -/
def diagEvents (red green blue : Half) : List Event :=
  (if (coerce red).2 then [.diag .red red] else []) ++
  (if (coerce green).2 then [.diag .green green] else []) ++
  (if (coerce blue).2 then [.diag .blue blue] else [])

end Sys2Proof.Machine
end

