-- ==== Sys2Proof/Machine/Ops.lean ====
section
/-! DEFINITION. The operations every command is written over: the frame buffer's bytes and slots, the response,
raising a fault (60_exceptions.md R142), the trace's events, the hand-over to the serial interface
(43_transmit.md R122, R126), accepting a command, and power-on reset (70_reset_and_hazards.md R160). -/

namespace Sys2Proof.Machine

/-! ### The frame buffer (20_memory.md R42, R43) -/

/-- The canonical form: addresses strictly rising. An unlisted address has no value, so no listed byte is
excluded. -/
abbrev Memory.wf (m : Memory) : Prop := (m.map Prod.fst).Pairwise (· < ·)

/-- `Buf[a]` (R12); none where the address holds no value. Log entry 7. -/
def Memory.read : Memory → Nat → Option Byte
  | [], _ => none
  | (k, u) :: m, a => if a = k then some u else Memory.read m a

/-- `Buf[a] <- v` (R12). -/
def Memory.write : Memory → Nat → Byte → Memory
  | [], a, v => [(a, v)]
  | (k, u) :: m, a, v =>
    if a < k then (a, v) :: (k, u) :: m
    else if a = k then (a, v) :: m
    else (k, u) :: Memory.write m a v

/-- Successive bytes written from address a on, in ascending order (R55). -/
def Memory.writeBytes (m : Memory) (a : Nat) : List Byte → Memory
  | [] => m
  | b :: bs => (m.write a b).writeBytes (a + 1) bs

/-- The same 24 bytes written to the pixel slots lo, lo+1, …, `count` of them: `Buf[24*p + k] <- blk[k]`
(R100, R103). -/
def Memory.fillSlots (m : Memory) (lo : Nat) (count : Nat) (blk : List Byte) : Memory :=
  match count with
  | 0 => m
  | n + 1 => (m.writeBytes (24 * lo) blk).fillSlots (lo + 1) n blk

/-- The sequencer's own form of a write (R108): at each address of a sequence it writes `blk[SEQ_ADDR mod 24]`. -/
def Memory.sequencerWrite (m : Memory) (blk : List Byte) : List Nat → Memory
  | [] => m
  | a :: as => (m.write a (blk.getD (a % 24) 0)).sequencerWrite blk as

/-- SEQ_ADDR's values over the slots lo, …, `count` of them (R108): 24·lo, 24·lo+1, … ascending. -/
def sequencerAddresses (lo count : Nat) : List Nat := List.range' (24 * lo) (24 * count)

/-- A new buffer of L bytes, each 0x00 (R93). -/
def zeroBuffer (length : Nat) : Memory := (List.range length).map fun a => (a, 0x00)

/-- The bytes held at addresses 0 to `length` − 1, in ascending order (R45, R121). -/
def Memory.bytesBelow (m : Memory) (length : Nat) : List Byte := (List.range length).filterMap m.read

/-- The bytes held in pixel slot p (R43), first address first. -/
def Memory.slot (m : Memory) (p : Nat) : List Byte :=
  (List.range 24).filterMap fun k => m.read (24 * p + k)

/-- The buffer CONSTRUCT of n pixels leaves: zero-filled, then filled to black over the slots 0..n−1 (R92, R93). -/
def blankBuffer (c : Config) (n : Nat) : Memory :=
  (zeroBuffer (bufferLength n)).fillSlots 0 n (block c 0 0 0)

/-- `L`, the length of this machine's buffer (R30). -/
def State.bufLen (s : State) : Nat := bufferLength s.frameSize.toNat

/-- The frame a DRAW sends: Buf[0], …, Buf[L−1] (R121). -/
def State.frame (s : State) : List Byte := s.buf.bytesBelow s.bufLen

/-! ### Ending a command -/

/-- The value SEQ_ADDR holds where R22 gives none, between commands and while a configure request waits: free, within
its ADDR_W bits. Log entry 4. -/
def State.freeSeqAddr (s : State) : BitVec 21 :=
  BitVec.ofNat 21 ((Config.freeSeqAddr s.freeCount).toNat % 2 ^ s.params.addrWidth)

/-- `respond(status, diag)` (R12): the command ends with its response, and `cmd_ready` rises. -/
def respond (status : Cause) (diag : BitVec 3) (s : State) : State :=
  { s with
    response := some { status := status, diag := diag }
    inFlight := none
    accepted := 0
    seqAddr := s.freeSeqAddr
    freeCount := s.freeCount + 1 }

/-- `raise Fault(cause)` (R142): sticky FAULT, CAUSE, and the response; nothing else of the block changes. There is
no vector, no saved state and no return (R146, R147). -/
def raiseFault (cause : Cause) (s : State) : State :=
  respond cause 0 { s with fault := true, cause := cause }

/-! ### The output trace (R29) -/

/-- `emit Configure(MSB_FIRST, SPI_CLOCK_KHZ)`, which sets CONFIGURED (R26, R124). -/
def emitConfigure (s : State) : State :=
  { s with trace := s.trace ++ [.configure .msbFirst s.params.spiClockKhz], configured := true }

/-- `emit Write(bytes)`, which sets DRAWN (R26, R120). -/
def emitWrite (bytes : List Byte) (s : State) : State :=
  { s with trace := s.trace ++ [.write bytes], drawn := true }

/-- The ghost CALLER_ERR is set where the use is a caller error, and never cleared (R27). -/
def noteCallerError (isError : Bool) (s : State) : State := { s with callerErr := s.callerErr || isError }

/-! ### The serial interface (R122, R126, R128) -/

/-- Whether the interface accepts `k` more handshakes in this waiting step. -/
def SerialInput.accepts (x : SerialInput) (k : Nat) : Bool :=
  match x.grants with
  | g :: _ => decide (k ≤ g)
  | [] => x.fair || decide (k = 0)

/-- How many handshakes it accepts in a waiting step in which it does not accept them all. -/
def SerialInput.granted (x : SerialInput) : Nat :=
  match x.grants with
  | g :: _ => g
  | [] => 0

/-- The input after one waiting step. -/
def SerialInput.advance (x : SerialInput) : SerialInput := { x with grants := x.grants.tail }

/-- The command waits: the handshakes accepted in this step are counted, SEQ_ADDR stands at the next frame byte
once the configure request (if the command has one) is through, and no other element of the block changes (R22, R122).
DESIGN CHOICE: while the configure request itself waits no byte is being read or written, R22 gives SEQ_ADDR no value,
and it holds a free one. Log entry 4. -/
def holdCommand (configures : Nat) (s : State) : State :=
  let accepted := s.accepted + s.serial.granted
  { s with
    accepted := accepted
    seqAddr := if configures ≤ accepted then BitVec.ofNat 21 (accepted - configures) else s.freeSeqAddr
    freeCount := if configures ≤ accepted then s.freeCount else s.freeCount + 1
    serial := s.serial.advance }

/-- A command that hands `configures` configure requests and then `bytes` frame bytes to the interface completes in
the step in which the interface accepts the last of them, with `complete`, and holds until then (R122, R126). All the
command's effects come with `complete`. Log entry 5. -/
def transfer (configures bytes : Nat) (complete : State → State) (s : State) : State :=
  if s.serial.accepts (configures + bytes - s.accepted) then
    complete { s with serial := s.serial.advance }
  else holdCommand configures s

/-! ### The command port and reset -/

/-- The words presented on the command port now: the next of every agent that has one (R9, R152). -/
def State.presented (s : State) : List CmdWord := s.streams.filterMap List.head?

/-- The block takes the presented command, and `cmd_ready` falls (R9). -/
def State.accept (w : CmdWord) (s : State) : State :=
  { s with inFlight := some w, accepted := 0, streams := s.streams.map List.tail }

/-- Power-on reset (R160): every element at the value of R34; a command in progress is abandoned. The parameters
and the outside world's inputs are no state of the block and stay, but for `rst`, which is over. Log entry 6. -/
def State.powerOn (s : State) : State :=
  { State.reset with params := s.params, freeCount := s.freeCount, streams := s.streams, serial := s.serial }

end Sys2Proof.Machine
end

