-- ==== Sys2Proof/Machine/Construct.lean ====
section
/-! DEFINITION. CONSTRUCT (41_construction.md R90 to R95). -/

namespace Sys2Proof.Machine

/-- The buffer allocated, zero-filled and filled to black, FRAMESIZE and CONSTRUCTED written (R90, R92, R93). -/
def construct (n : Half) (s : State) : State :=
  { s with frameSize := n, buf := blankBuffer s.params n.toNat, constructed := true }

/-- The end of CONSTRUCT with AUTODRAW = 1 (R91): construct, configure, transmit the blank frame, respond. -/
def constructAndDraw (n : Half) (s : State) : State :=
  let built := construct n s
  respond .none 0 (emitWrite built.frame (emitConfigure built))

/-- CONSTRUCT (R90). The checks stand in R143's order; ILLEGAL_COMMAND is raised before (`runWord`). With
AUTODRAW = 1 the command waits for one configure request and L frame bytes. -/
def execConstruct (autoDraw : Bool) (n : Half) (s : State) : Host.Outcome State Fault Refusal :=
  .next <|
    if s.constructed then raiseFault .alreadyConstructed s
    else if n.toNat < 1 ∨ s.params.maxPixels < n.toNat then raiseFault .badFrameSize s
    else if autoDraw then transfer 1 (bufferLength n.toNat) (constructAndDraw n) s
    else respond .none 0 (construct n s)

end Sys2Proof.Machine
end

