-- ==== Sys2Proof/Machine/PixelWrites.lean ====
section
/-! DEFINITION. SET and FILL (42_pixel_writes.md R100 to R109). -/

namespace Sys2Proof.Machine

/-- A color written to the slots lo, …, `count` of them, after every check has passed: the diagnostics once for the
command, the block in each slot, the response (R86, R87, R100, R103). -/
def writePixels (lo count : Nat) (red green blue : Half) (s : State) : State :=
  respond .none (rspDiag red green blue)
    { s with
      buf := s.buf.fillSlots lo count (block s.params red green blue)
      trace := s.trace ++ diagEvents red green blue }

/-- SET (R100). The index is compared with N before any address is computed (R109). -/
def execSet (index red green blue : Half) (s : State) : Host.Outcome State Fault Refusal :=
  .next <|
    if !s.constructed then raiseFault .notConstructed s
    else if s.frameSize.toNat ≤ index.toNat then raiseFault .indexRange s
    else writePixels index.toNat 1 red green blue s

/-- FILL (R103): defaults resolved, both bounds checked, then the range normalised to lo..hi (R104). -/
def execFill (hasStart hasEnd : Bool) (start stop red green blue : Half) (s : State) :
    Host.Outcome State Fault Refusal :=
  let first := fillStart hasStart start
  let last := fillEnd hasEnd stop s.frameSize.toNat
  .next <|
    if !s.constructed then raiseFault .notConstructed s
    else if s.frameSize.toNat ≤ first ∨ s.frameSize.toNat ≤ last then raiseFault .fillRange s
    else writePixels (min first last) (max first last + 1 - min first last) red green blue s

end Sys2Proof.Machine
end

