-- ==== Sys2Proof/Machine/Transmit.lean ====
section
/-! DEFINITION. DRAW and CONFIGURE (43_transmit.md R120 to R128). -/

namespace Sys2Proof.Machine

/-- The end of a DRAW, its last byte accepted (R120, R123). -/
def drawFrame (s : State) : State :=
  respond .none 0 (emitWrite s.frame (noteCallerError s.drawIsCallerError s))

/-- DRAW (R120): the whole buffer to the serial interface, L frame bytes (R121). The fault is for a state no run
reaches, a constructed machine whose buffer lacks a byte (`Fault.bufferByteAbsent`). -/
def execDraw (s : State) : Host.Outcome State Fault Refusal :=
  if !s.constructed then .next (raiseFault .notConstructed s)
  else if s.frame.length = s.bufLen then .next (transfer 0 s.bufLen drawFrame s)
  else .fault .bufferByteAbsent

/-- The end of a CONFIGURE, its request accepted (R124, R125). -/
def sendConfigure (s : State) : State :=
  respond .none 0 (emitConfigure (noteCallerError s.configureIsCallerError s))

/-- CONFIGURE (R124): one configure request (R126). -/
def execConfigure (s : State) : Host.Outcome State Fault Refusal :=
  .next <|
    if !s.constructed then raiseFault .notConstructed s
    else transfer 1 0 sendConfigure s

end Sys2Proof.Machine
end

