-- ==== Sys2Proof/Machine/Dispatch.lean ====
section
/-! DEFINITION. One arm per command, each one call of its meaning. -/

namespace Sys2Proof.Machine

def exec (i : Instr) (s : State) : Host.Outcome State Fault Refusal :=
  match i with
  | .construct autoDraw frameSize => Sys2Proof.Machine.execConstruct autoDraw frameSize s
  | .set index red green blue => Sys2Proof.Machine.execSet index red green blue s
  | .fill hasStart hasEnd start stop red green blue => Sys2Proof.Machine.execFill hasStart hasEnd start stop red green blue s
  | .draw => Sys2Proof.Machine.execDraw s
  | .configure => Sys2Proof.Machine.execConfigure s

end Sys2Proof.Machine
end

