-- ==== Sys2Proof/Machine/Fetch.lean ====
section
/-! DEFINITION. How a command word comes to the block: placing a word on the command port (00_scope.md R8, R9). The
block fetches no instructions and has no program counter (10_state.md R22). -/

namespace Sys2Proof.Machine

/-- The machine with word w presented on the command port by the one host agent: not in reset, no command in
progress, and w at the head of the command stream. Log entry 2. -/
def State.present (w : CmdWord) (s : State) : State :=
  { s with
    rst := false
    inFlight := none
    accepted := 0
    streams := [w :: s.streams.headD []] }

end Sys2Proof.Machine
end

