-- ==== Sys2Proof/Machine/Step.lean ====
section
/-! DEFINITION. One step of the machine: power-on reset, one command of the command port run to completion or held
at the serial interface, or nothing (00_scope.md R8; 43_transmit.md R122; 70_reset_and_hazards.md R160). -/

namespace Sys2Proof.Machine

/-- The command in progress decoded and run. An illegal word raises ILLEGAL_COMMAND before any other check (R65,
R143). -/
def runWord (w : CmdWord) (s : State) : Host.Outcome State Fault Refusal :=
  match decode w with
  | .ok i => exec i s
  | .error _ => .next (raiseFault .illegalCommand s)

/-- One step. While `rst` is asserted the machine resets (R160). A command in progress goes on, and no other is
accepted (R9: `cmd_ready` is low). Else the block accepts the one command presented (R8), refuses two at once
(R152; log entry 12), and idles with its state kept where none is (R154). -/
def step (s : State) : Host.Outcome State Fault Refusal :=
  if s.rst then .next s.powerOn
  else
    match s.inFlight with
    | some w => runWord w s
    | none =>
      match s.presented with
      | [] => .next s
      | [w] => runWord w (s.accept w)
      | _ :: _ :: _ => .refused .concurrentCommands

/-- The state in which the very next step accepts and runs the command whose word is w (log entry 2). -/
def State.withFetchWord (s : State) (nbits w : Nat) : State := s.present (BitVec.ofNat 96 (w % 2 ^ nbits))

end Sys2Proof.Machine
end

