-- ==== Sys2Proof/Machine/Instances.lean ====
section
/-! DEFINITION. Several instances of the block in one system (60_exceptions.md R151): each with its own state, command
port and serial interface. -/

namespace Sys2Proof.Machine

/-- A system of instances, by number. Instances with the same ZERO_BYTE and ONE_BYTE share one ROM, since
`romByte` depends on nothing else (R82, R151). -/
abbrev System := List State

/-- One step of instance k; no other instance takes part (R151). Log entry 15. -/
def systemStep (sys : System) (k : Fin sys.length) : Host.Outcome System Fault Refusal :=
  match step sys[k] with
  | .next t => .next (sys.set k t)
  | .fault r => .fault r
  | .refused r => .refused r

end Sys2Proof.Machine
end

