-- ==== Sys2Proof/Machine/Ports.lean ====
section
/-! DEFINITION. The block's ports as views of the state and of the events (00_scope.md R9, R10; 10_state.md R35;
43_transmit.md R121, R126, R127). In the transaction model the handshake ports reduce to events (R9); these views
give an event's beats back, and the bits of a frame on the wire. -/

namespace Sys2Proof.Machine

/-! ### The command port and the registers -/

/-- `cmd_ready`: low while a command executes (R9, R51). DESIGN CHOICE: R9, R34 and R160 do not say what it shows while
`rst` is asserted; here it does not depend on `rst`. Log entry 6. -/
def State.cmdReady (s : State) : Bool := s.inFlight.isNone

/-- `cmd_valid`: a command is presented (R9). -/
def State.cmdValid (s : State) : Bool := !s.presented.isEmpty

/-- The `status` port (R24, R35). -/
def State.statusPort (s : State) : BitVec 16 := s.statusWord

/-- The `frame_size` port (R23, R35). -/
def State.frameSizePort (s : State) : BitVec 16 := s.frameSize

/-- `rsp_status`: 0 = OK, else the cause code (R9, R140). -/
def Response.statusCode (r : Response) : BitVec 4 := r.status.code

/-! ### The beats of an event -/

/-- One transfer on `cfg_valid`/`cfg_ready` (R126). -/
structure CfgBeat where
  msbFirst : Bool
  clockKhz : BitVec 32
deriving DecidableEq, Repr

/-- One transfer on `tx_valid`/`tx_ready`: `tx_data` and `tx_last` (R121). -/
structure TxBeat where
  data : Byte
  last : Bool
deriving DecidableEq, Repr

/-- One pulse of `diag_valid`: `diag_channel` and `diag_value` (R9). -/
structure DiagBeat where
  channel : BitVec 2
  value : BitVec 16
deriving DecidableEq, Repr

/-- A frame's burst: its bytes in order, `tx_last` high with the last one only (R121). -/
def txBurst : List Byte → List TxBeat
  | [] => []
  | [b] => [{ data := b, last := true }]
  | b :: c :: bs => { data := b, last := false } :: txBurst (c :: bs)

/-- The transfers of an event on the `tx_*` ports. -/
def Event.txBeats : Event → List TxBeat
  | .write bytes => txBurst bytes
  | .configure _ _ => []
  | .diag _ _ => []

/-- The transfers of an event on the `cfg_*` ports. The port has 32 bits for a clock that R6 leaves unbounded: it
shows the low 32. Log entry 8. -/
def Event.cfgBeats : Event → List CfgBeat
  | .configure order clockKhz => [{ msbFirst := order == .msbFirst, clockKhz := BitVec.ofNat 32 clockKhz }]
  | .write _ => []
  | .diag _ _ => []

/-- The pulses of an event on the `diag_*` ports. -/
def Event.diagBeats : Event → List DiagBeat
  | .diag channel value => [{ channel := channel.code, value := value }]
  | .configure _ _ => []
  | .write _ => []

/-- The events a step appends to the trace. -/
def newEvents (s t : State) : List Event := t.trace.drop s.trace.length

/-! ### What the block drives while a command is in progress (R9, R122, R126) -/

/-- One handshake the block offers to the serial interface. -/
inductive SerialBeat where
  /-- A configure request: `cfg_valid` is high. -/
  | cfg (beat : CfgBeat)
  /-- A frame byte: `tx_valid` is high. -/
  | tx (beat : TxBeat)
deriving DecidableEq, Repr

/-- The handshakes of an event, in order. -/
def Event.serialBeats (e : Event) : List SerialBeat := e.cfgBeats.map .cfg ++ e.txBeats.map .tx

/-- All the handshakes a legal command owes in this state: the configure request, then the frame (R91, R121,
R126). A CONSTRUCT sends the blank frame of the buffer it builds. -/
def serialBeatsOf (i : Instr) (s : State) : List SerialBeat :=
  match i with
  | .construct true n =>
    (Event.configure .msbFirst s.params.spiClockKhz).serialBeats ++ (Event.write (construct n s).frame).serialBeats
  | .construct false _ => []
  | .set _ _ _ _ => []
  | .fill _ _ _ _ _ _ _ => []
  | .draw => (Event.write s.frame).serialBeats
  | .configure => (Event.configure .msbFirst s.params.spiClockKhz).serialBeats

/-- The handshake the block offers now: the first one the command in progress has not had accepted (R122). A command
is held only past its checks, so a held command owes all of them. None while no command is in progress: then
`cfg_valid` and `tx_valid` are low (R34). DESIGN CHOICE: R9, R34 and R160 do not say what these ports show while `rst`
is asserted with a command in progress; here they do not depend on `rst`. Log entry 6. -/
def State.offeredBeat (s : State) : Option SerialBeat :=
  match s.inFlight with
  | none => none
  | some w =>
    match decode w with
    | .ok i => ((serialBeatsOf i s).drop s.accepted).head?
    | .error _ => none

/-- `cfg_valid` (R126); log entry 6 for what it shows while `rst` is asserted. -/
def State.cfgValid (s : State) : Bool :=
  match s.offeredBeat with
  | some (.cfg _) => true
  | some (.tx _) => false
  | none => false

/-- `tx_valid` (R121); log entry 6 for what it shows while `rst` is asserted. -/
def State.txValid (s : State) : Bool :=
  match s.offeredBeat with
  | some (.tx _) => true
  | some (.cfg _) => false
  | none => false

/-- The response a step from s to t gives: `rsp_valid` with `rsp_status` and `rsp_diag`, one for each accepted command,
in the step that ends it (R9). -/
def responseGiven (s t : State) : Option Response :=
  if s.rst = false ∧ (s.inFlight.isSome = true ∨ s.cmdValid = true) ∧ t.inFlight = none then t.response else none

/-! ### The wire (R45, R46, R127, R172) -/

/-- The bits of a frame on the line: each byte in order, bit 7 first (R45). -/
def wireBits (bytes : List Byte) : List Bool := bytes.flatMap bitsMsbFirst

/-- How many SPI bit periods a frame occupies (R172). -/
def lineBitPeriods (bytes : List Byte) : Nat := 8 * bytes.length

end Sys2Proof.Machine
end

