-- ==== Sys2Proof/Safety.lean ====
section
/-! DEFINITION. What claims are stated in: the fault a command must report (60_exceptions.md R140, R143), the
invariant of every run (10_state.md R30, R31), the contract with the serial interface (43_transmit.md R128), and what
counts as a safe run (10_state.md R27). -/

namespace Sys2Proof.Machine

/-- The cause a legal command reports in a state, by R140's conditions in R143's order; `.none` where every check
passes. -/
def faultOf (i : Instr) (s : State) : Cause :=
  match i with
  | .construct _ n =>
    if s.constructed then .alreadyConstructed
    else if n.toNat = 0 ∨ n.toNat > s.params.maxPixels then .badFrameSize
    else .none
  | .set index _ _ _ =>
    if s.constructed = false then .notConstructed
    else if index.toNat ≥ s.frameSize.toNat then .indexRange
    else .none
  | .fill hasStart hasEnd start stop _ _ _ =>
    if s.constructed = false then .notConstructed
    else if fillStart hasStart start ≥ s.frameSize.toNat then .fillRange
    else if fillEnd hasEnd stop s.frameSize.toNat ≥ s.frameSize.toNat then .fillRange
    else .none
  | .draw => if s.constructed = false then .notConstructed else .none
  | .configure => if s.constructed = false then .notConstructed else .none

/-- The cause the block reports for a command word: ILLEGAL_COMMAND before every other check (R143). -/
def faultOfWord (w : CmdWord) (s : State) : Cause :=
  match decode w with
  | .ok i => faultOf i s
  | .error _ => .illegalCommand

/-- How many configure requests a command hands to the serial interface (R91, R124). -/
def configuresOf : Instr → Nat
  | .construct autoDraw _ => if autoDraw then 1 else 0
  | .set _ _ _ _ => 0
  | .fill _ _ _ _ _ _ _ => 0
  | .draw => 0
  | .configure => 1

/-- How many frame bytes a command hands to the serial interface (R91, R121). -/
def frameBytesOf (i : Instr) (s : State) : Nat :=
  match i with
  | .construct autoDraw n => if autoDraw then bufferLength n.toNat else 0
  | .set _ _ _ _ => 0
  | .fill _ _ _ _ _ _ _ => 0
  | .draw => s.bufLen
  | .configure => 0

/-- The commands that wait on the serial interface: CONSTRUCT with AUTODRAW = 1, DRAW, CONFIGURE (R169). -/
def waitsOnSerial : Instr → Bool
  | .construct autoDraw _ => autoDraw
  | .set _ _ _ _ => false
  | .fill _ _ _ _ _ _ _ => false
  | .draw => true
  | .configure => true

/-- The serial interface accepts, in this step, all that is left of what the command hands to it (R122, R126). -/
def serialDone (i : Instr) (s : State) : Bool :=
  s.serial.accepts (configuresOf i + frameBytesOf i s - s.accepted)

/-- A configure request. -/
def Event.isConfigure : Event → Bool
  | .configure _ _ => true
  | .write _ => false
  | .diag _ _ => false

/-- A transmitted frame. -/
def Event.isWrite : Event → Bool
  | .write _ => true
  | .configure _ _ => false
  | .diag _ _ => false

/-- A diagnostic. -/
def Event.isDiag : Event → Bool
  | .diag _ _ => true
  | .configure _ _ => false
  | .write _ => false

/-! ### The words of a frame: what a command leaves unchanged -/

/-- STATUS's flags and cause, FRAMESIZE, the ghost CALLER_ERR and the parameters are as before. -/
structure RegistersKept (s t : State) : Prop where
  params : t.params = s.params
  constructed : t.constructed = s.constructed
  frameSize : t.frameSize = s.frameSize
  configured : t.configured = s.configured
  drawn : t.drawn = s.drawn
  fault : t.fault = s.fault
  cause : t.cause = s.cause
  callerErr : t.callerErr = s.callerErr

/-- The outside world's inputs but for the serial interface are as before. -/
structure InputsKept (s t : State) : Prop where
  rst : t.rst = s.rst
  streams : t.streams = s.streams

/-- The command ended: its response is given, and `cmd_ready` is high with no handshake outstanding (R9, R12). -/
structure Answered (status : Cause) (diag : BitVec 3) (t : State) : Prop where
  response : t.response = some { status := status, diag := diag }
  ready : t.inFlight = none
  settled : t.accepted = 0

/-- Every byte of the buffer outside the addresses first ≤ a < past reads as before. -/
def BufferKeptOutside (s t : State) (first past : Nat) : Prop :=
  ∀ a, ¬ (first ≤ a ∧ a < past) → t.buf.read a = s.buf.read a

/-- Every byte of the buffer reads as before. -/
def BufferKept (s t : State) : Prop := ∀ a, t.buf.read a = s.buf.read a

/-! ### The invariant of every run -/

/-- The invariant of every run. Its clauses come from R6, R22 to R31, R86 and R121. -/
structure RunInv (s : State) : Prop where
  /-- R6: the parameters are within their limits. -/
  params_ok : s.params.wf = true
  /-- The buffer is in canonical form. -/
  canonical : s.buf.wf
  /-- R23, R30: before CONSTRUCT, N = 0 and the buffer has no value. -/
  unbuilt : s.constructed = false → s.frameSize = 0 ∧ s.buf = []
  /-- R23, R90: after it, 1 ≤ N ≤ MAX_PIXELS. -/
  size : s.constructed = true → 1 ≤ s.frameSize.toNat ∧ s.frameSize.toNat ≤ s.params.maxPixels
  /-- R42, R49: the addresses that exist are 0 to L − 1. -/
  extent : s.constructed = true → ∀ a, (s.buf.read a).isSome = true ↔ a < s.bufLen
  /-- R31: `Buf[24·N] = 0x00`. -/
  trailer : s.constructed = true → s.buf.read (24 * s.frameSize.toNat) = some 0x00
  /-- R31: every pixel slot holds Wave(g) ++ Wave(r) ++ Wave(b) for some g, r, b. -/
  slots : s.constructed = true → ∀ p < s.frameSize.toNat, ∃ g r b : Byte,
    s.buf.slot p = wave s.params g ++ wave s.params r ++ wave s.params b
  /-- R25: before CONSTRUCT nothing has been configured or drawn. -/
  idle_before : s.constructed = false → s.configured = false ∧ s.drawn = false
  /-- R28, R140: FAULT is set exactly when CAUSE names a fault. -/
  cause_known : s.fault = true ↔ s.cause ≠ .none
  /-- R26: CONFIGURED says whether a Configure event was emitted. -/
  configured_iff : s.configured = true ↔ ∃ e ∈ s.trace, e.isConfigure = true
  /-- R26: DRAWN says whether a Write event was emitted. -/
  drawn_iff : s.drawn = true ↔ ∃ e ∈ s.trace, e.isWrite = true
  /-- R45, R124: every configure request asks for MSB first at the fixed clock. -/
  configures_fixed : ∀ order clock, Event.configure order clock ∈ s.trace →
    order = .msbFirst ∧ clock = s.params.spiClockKhz
  /-- R121, R31: every frame sent has L bytes, the last of them the trailer 0x00. -/
  frames_whole : ∀ bytes, Event.write bytes ∈ s.trace →
    bytes.length = s.bufLen ∧ bytes.getLast? = some 0x00
  /-- R85, R86: every diagnostic reports a value outside 0..255. -/
  diags_due : ∀ channel value, Event.diag channel value ∈ s.trace →
    value.toInt < 0 ∨ 255 < value.toInt
  /-- R22: SEQ_ADDR is ADDR_W bits wide. -/
  seq_addr : s.seqAddr.toNat < 2 ^ s.params.addrWidth
  /-- R32: between commands no handshake of a command is outstanding. -/
  quiet : s.inFlight = none → s.accepted = 0

/-- What the block owes the serial interface (R128, R123, R125, R164, R165), while CALLER_ERR = 0: at most one configure
request, none after a frame, and (unless the interface was configured outside the block) none missing before a
frame. -/
structure SerialContract (s : State) : Prop where
  at_most_one : s.callerErr = false → (s.trace.filter Event.isConfigure).length ≤ 1
  none_after_frame : s.callerErr = false →
    s.trace.Pairwise fun earlier later => ¬ (earlier.isWrite = true ∧ later.isConfigure = true)
  configured_first : s.callerErr = false → s.params.extConfigured = false →
    ∀ before bytes after, s.trace = before ++ Event.write bytes :: after →
      ∃ e ∈ before, e.isConfigure = true

/-- A state whose run so far a claim about the LED strip may speak of: no caller error (R27). -/
def State.stripDefined (s : State) : Bool := !s.callerErr

/-- A state whose run so far reported no fault since reset (92 D12: a sticky bit lets claims take "no fault" as a
premise). -/
def State.faultFree (s : State) : Bool := !s.fault

/-- A safe run: no fault reported and no caller error. -/
def State.safe (s : State) : Bool := s.stripDefined && s.faultFree

/-- The state without the two elements no rule of the block reads: the ghost CALLER_ERR (R27) and SEQ_ADDR (R22). -/
def State.forget (s : State) : State := { s with callerErr := false, seqAddr := 0 }

/-- An outcome without them. -/
def forgetOutcome : Host.Outcome State Fault Refusal → Host.Outcome State Fault Refusal
  | .next t => .next t.forget
  | .fault r => .fault r
  | .refused r => .refused r

end Sys2Proof.Machine
end

