-- ==== Sys2Proof/Certificates/Slice0/Obligations.lean ====
section
/-! DEFINITION. The statements for the provers, family by family; OBLIGATIONS.json lists them with the rules they
formalise. -/

section Statements
open Sys2Proof Sys2Proof.Machine

/-! ### Encoding (30_encoding.md) -/

/-- R65: every legal word selects one command; no bit of an encoding is dropped, for every well-formed command of every
family and every operand value. -/
def Obligations.DecodeOfEncode : Prop := ∀ i : Instr, i.wf = true → decode (encode i) = .ok i

/-- The other direction: a word that decodes is the encoding of a well-formed command. -/
def Obligations.EncodeOfDecode : Prop :=
  ∀ (w : CmdWord) (i : Instr), decode w = .ok i → i.wf = true ∧ encode i = w

/-- R69: the encoding function as the sum of its shifted fields, channels modulo 2^16, and R69's two examples. -/
def Obligations.EncodingIsFieldSum : Prop :=
  (∀ (autoDraw : Bool) (n : Half),
    (encode (.construct autoDraw n)).toNat = 1 * 2 ^ 92 + autoDraw.toNat * 2 ^ 91 + n.toNat * 2 ^ 64) ∧
  (∀ index red green blue : Half,
    (encode (.set index red green blue)).toNat = 2 * 2 ^ 92 + index.toNat * 2 ^ 64 +
      (red.toInt % 2 ^ 16).toNat * 2 ^ 32 + (green.toInt % 2 ^ 16).toNat * 2 ^ 16 +
      (blue.toInt % 2 ^ 16).toNat) ∧
  (∀ (hasStart hasEnd : Bool) (start stop red green blue : Half),
    (encode (.fill hasStart hasEnd start stop red green blue)).toNat = 3 * 2 ^ 92 + hasStart.toNat * 2 ^ 91 +
      hasEnd.toNat * 2 ^ 90 + start.toNat * 2 ^ 64 + stop.toNat * 2 ^ 48 +
      (red.toInt % 2 ^ 16).toNat * 2 ^ 32 + (green.toInt % 2 ^ 16).toNat * 2 ^ 16 +
      (blue.toInt % 2 ^ 16).toNat) ∧
  (encode .draw).toNat = 4 * 2 ^ 92 ∧
  (encode .configure).toNat = 5 * 2 ^ 92 ∧
  encode (.set 1 255 0 0) = 0x2000_0001_0000_00FF_0000_0000#96 ∧
  encode (.set 0 (-1) 256 0) = 0x2000_0000_0000_FFFF_0100_0000#96

/-- The decoder and spec/opcode_table.json agree: a word decodes to a row's command exactly where it matches the row
under its mask and meets the row's constraints. -/
def Obligations.DecodeMatchesOpcodeTable : Prop := ∀ w : CmdWord,
  ((∃ autoDraw n, decode w = .ok (.construct autoDraw n)) ↔
    w &&& 0xF7FF0000FFFFFFFFFFFFFFFF#96 = 0x100000000000000000000000#96) ∧
  ((∃ index red green blue, decode w = .ok (.set index red green blue)) ↔
    w &&& 0xFFFF0000FFFF000000000000#96 = 0x200000000000000000000000#96) ∧
  ((∃ hasStart hasEnd start stop red green blue,
      decode w = .ok (.fill hasStart hasEnd start stop red green blue)) ↔
    w &&& 0xF3FF00000000000000000000#96 = 0x300000000000000000000000#96 ∧
      (w.getLsbD 91 = false → w.extractLsb' 64 16 = 0) ∧ (w.getLsbD 90 = false → w.extractLsb' 48 16 = 0)) ∧
  (decode w = .ok .draw ↔ w = 0x400000000000000000000000#96) ∧
  (decode w = .ok .configure ↔ w = 0x500000000000000000000000#96)

/-- R63, R64, R65: which words are illegal. A word is refused exactly where its OP is reserved or a field marked "0" for
its OP is nonzero. -/
def Obligations.IllegalWordsAreReserved : Prop := ∀ w : CmdWord,
  (∃ e, decode w = .error e) ↔
    (let op := (w.extractLsb' 92 4).toNat
     let f1 := w.extractLsb' 91 1
     let f0 := w.extractLsb' 90 1
     let a := w.extractLsb' 64 16
     let b := w.extractLsb' 48 16
     let channels := w.extractLsb' 0 48
     op = 0 ∨ 6 ≤ op ∨ w.extractLsb' 80 10 ≠ 0 ∨
     (op = 1 ∧ (f0 ≠ 0 ∨ b ≠ 0 ∨ channels ≠ 0)) ∨
     (op = 2 ∧ (f1 ≠ 0 ∨ f0 ≠ 0 ∨ b ≠ 0)) ∨
     (op = 3 ∧ ((f1 = 0 ∧ a ≠ 0) ∨ (f0 = 0 ∧ b ≠ 0))) ∨
     ((op = 4 ∨ op = 5) ∧ (f1 ≠ 0 ∨ f0 ≠ 0 ∨ a ≠ 0 ∨ b ≠ 0 ∨ channels ≠ 0)))

/-- Words of R69, 95 §2.3, P2 and P3 against the commands they are spelled for, one of each family, and one refused. -/
def Obligations.DecodeSampleWords : Prop :=
  decode 0x1800_0004_0000_0000_0000_0000#96 = .ok (.construct true 4) ∧
  decode 0x1000_000A_0000_0000_0000_0000#96 = .ok (.construct false 10) ∧
  decode 0x2000_0001_0000_00FF_0000_0000#96 = .ok (.set 1 255 0 0) ∧
  decode 0x3C00_0003_0001_0012_FFFF_012C#96 = .ok (.fill true true 3 1 0x12 (-1) 300) ∧
  decode 0x4000_0000_0000_0000_0000_0000#96 = .ok .draw ∧
  decode 0x5000_0000_0000_0000_0000_0000#96 = .ok .configure ∧
  decode 0x6000_0000_0000_0000_0000_0000#96 = .error .reservedOpcode ∧
  decode 0x3000_0001_0000_0000_0000_0000#96 = .error .nonzeroField

/-- R67: the assembler takes an index from −32768 to 65535 and channels from −32768 to 32767, encodes them modulo 2^16,
and refuses every other value. -/
def Obligations.AssemblerOperandRanges : Prop := ∀ i r g b : Int,
  ((-32768 ≤ i ∧ i ≤ 65535) ∧ (-32768 ≤ r ∧ r ≤ 32767) ∧ (-32768 ≤ g ∧ g ≤ 32767) ∧
      (-32768 ≤ b ∧ b ≤ 32767) →
    ∃ index red green blue : Half, assemble (.set i r g b) = some (.set index red green blue) ∧
      (index.toNat : Int) = i % 65536 ∧ red.toInt = r ∧ green.toInt = g ∧ blue.toInt = b) ∧
  (¬ ((-32768 ≤ i ∧ i ≤ 65535) ∧ (-32768 ≤ r ∧ r ≤ 32767) ∧ (-32768 ≤ g ∧ g ≤ 32767) ∧
      (-32768 ≤ b ∧ b ≤ 32767)) → assemble (.set i r g b) = none)

/-- R68: CLEAR expands to FILL 0, 0, 0; run on a constructed block it sets every pixel to black and transmits nothing. -/
def Obligations.ClearBlacksEveryPixel : Prop :=
  assemble .clear = assemble (.fill 0 0 0 none none) ∧
  ∀ (i : Instr) (s : State), assemble .clear = some i → RunInv s → s.constructed = true →
    ∃ t, exec i s = .next t ∧ t.trace = s.trace ∧
      ∀ p < s.frameSize.toNat, t.buf.slot p = wave s.params 0 ++ wave s.params 0 ++ wave s.params 0

/-! ### The waveform ROM, coercion and the expander (40_waveform_table.md) -/

/-- R81: a waveform is exactly 8 bytes, and byte i is ONE_BYTE if bit 7 − i of the value is set, else ZERO_BYTE; the ROM
holds those bytes. -/
def Obligations.WaveformByteIsBit : Prop := ∀ (c : Config) (v : Byte),
  (wave c v).length = 8 ∧ ∀ i : Fin 8,
    (wave c v)[i.val]? = some (romByte c v i) ∧
    romByte c v i = if v.toNat / 2 ^ (7 - i.val) % 2 = 1 then c.oneByte else c.zeroByte

/-- R41: `Rom(v, i)` is at ROM address 8·v + i, and address a holds `Rom(a[10:3], a[2:0])`. -/
def Obligations.RomFlatAddressing : Prop := ∀ c : Config,
  (∀ (v : Byte) (i : Fin 8), romAt c (BitVec.ofNat 11 (8 * v.toNat + i.val)) = romByte c v i) ∧
  (∀ a : BitVec 11, (wave c (BitVec.ofNat 8 (a.toNat / 8)))[a.toNat % 8]? = some (romAt c a))

/-- R85: a channel in 0..255 keeps its value without a diagnostic; any other becomes 255 with one. -/
def Obligations.CoercionRule : Prop := ∀ x : Half,
  (0 ≤ x.toInt ∧ x.toInt ≤ 255 → ((coerce x).1.toNat : Int) = x.toInt ∧ (coerce x).2 = false) ∧
  (x.toInt < 0 ∨ 255 < x.toInt → (coerce x).1.toNat = 255 ∧ (coerce x).2 = true)

/-- R89: the ROM-free expander equals the ROM form, byte by byte: green, red, blue, bit 7 first. -/
def Obligations.BlockDirectForm : Prop := ∀ (c : Config) (red green blue : Half),
  (block c red green blue).length = 24 ∧
  ∀ k < 24, (block c red green blue)[k]? = some (blockByteDirect c red green blue k) ∧
    (block c red green blue)[k]? = some
      (if ([(coerce green).1, (coerce red).1, (coerce blue).1].getD (k / 8) 0).getLsbD (7 - k % 8) = true
        then c.oneByte else c.zeroByte)

/-- R87: `rsp_diag` has red in bit 2, green in bit 1, blue in bit 0. -/
def Obligations.RspDiagBits : Prop := ∀ red green blue : Half,
  (rspDiag red green blue).toNat =
    (if (coerce red).2 = true then 4 else 0) + (if (coerce green).2 = true then 2 else 0) +
      (if (coerce blue).2 = true then 1 else 0)

/-- R46: each pixel slot p of a constructed block holds the waveforms of a green, a red and a blue value, and the frame on
the wire is, pixel 0 first, the waveform bytes of the LED bits G7..G0, R7..R0, B7..B0 of those values, slot by slot, and
then the trailer; each byte goes out most significant bit first. -/
def Obligations.FrameWireOrder : Prop := ∀ s : State, RunInv s → s.constructed = true →
  ∃ pixels : List (Byte × Byte × Byte), pixels.length = s.frameSize.toNat ∧
    (∀ p < s.frameSize.toNat, ∃ green red blue : Byte, pixels[p]? = some (green, red, blue) ∧
      s.buf.slot p = wave s.params green ++ wave s.params red ++ wave s.params blue) ∧
    s.frame = pixels.flatMap (fun x => (ledBits x.1 x.2.1 x.2.2).map (bitByte s.params)) ++ [0x00] ∧
    wireBits s.frame = pixels.flatMap (fun x =>
      (ledBits x.1 x.2.1 x.2.2).flatMap fun bit => bitsMsbFirst (bitByte s.params bit)) ++ List.replicate 8 false

/-! ### Reset (70_reset_and_hazards.md, 10_state.md R34) -/

/-- R34: the elements R34 gives a value hold it in `State.reset`; the rest of that state is the model's choice (log
entries 1 to 4 and 6), and nothing is said of it here. -/
def Obligations.ResetValues : Prop :=
  State.reset.constructed = false ∧ State.reset.frameSize = 0 ∧ (∀ a, State.reset.buf.read a = none) ∧
  State.reset.configured = false ∧ State.reset.drawn = false ∧ State.reset.fault = false ∧
  State.reset.cause = .none ∧ State.reset.statusWord = 0 ∧ State.reset.trace = [] ∧
  State.reset.callerErr = false ∧ State.reset.response = none ∧ State.reset.cmdReady = true ∧
  State.reset.cfgValid = false ∧ State.reset.txValid = false

/-- R160: a step with `rst` asserted puts every element at its reset value, abandons a command in progress without a
response, records none of its transfers, keeps the ROM, and leaves the serial interface alone. -/
def Obligations.PowerOnReset : Prop := ∀ s : State, s.rst = true → ∃ t, step s = .next t ∧
  t.constructed = false ∧ t.frameSize = 0 ∧ t.configured = false ∧ t.drawn = false ∧ t.fault = false ∧
  t.cause = .none ∧ (∀ a, t.buf.read a = none) ∧ t.trace = [] ∧ t.callerErr = false ∧
  t.statusWord = 0 ∧ t.inFlight = none ∧ t.accepted = 0 ∧ responseGiven s t = none ∧ t.response = none ∧
  t.cfgValid = false ∧ t.txValid = false ∧ t.serial = s.serial ∧
  ∀ v i, romByte t.params v i = romByte s.params v i

/-- R161, R25: before construction CONSTRUCT succeeds (its frame size in range, its transfers accepted), and every other
command faults NOT_CONSTRUCTED. -/
def Obligations.OnlyConstructSucceedsFirst : Prop := ∀ s : State, s.constructed = false →
  (∀ (autoDraw : Bool) (n : Half), 1 ≤ n.toNat → n.toNat ≤ s.params.maxPixels →
    (autoDraw = true → serialDone (.construct autoDraw n) s = true) →
    ∃ t, exec (.construct autoDraw n) s = .next t ∧ Answered .none 0 t ∧ t.constructed = true) ∧
  (∀ i : Instr, (∀ autoDraw n, i ≠ .construct autoDraw n) →
    ∃ t, exec i s = .next t ∧ Answered .notConstructed 0 t ∧ t.fault = true ∧ t.cause = .notConstructed ∧
      t.constructed = false)

/-! ### CONSTRUCT (41_construction.md) -/

/-- R90, R92, R93: CONSTRUCT with AUTODRAW = 0 completes: N, L, every pixel byte ZERO_BYTE, the trailer 0x00, no other
byte, CONSTRUCTED, the response; nothing transmitted, nothing else changed. -/
def Obligations.ConstructCompletes : Prop := ∀ (n : Half) (s : State),
  s.constructed = false → 1 ≤ n.toNat → n.toNat ≤ s.params.maxPixels →
  ∃ t, exec (.construct false n) s = .next t ∧ t.constructed = true ∧ t.frameSize = n ∧
    t.bufLen = 24 * n.toNat + 1 ∧
    (∀ a < 24 * n.toNat, t.buf.read a = some s.params.zeroByte) ∧
    t.buf.read (24 * n.toNat) = some 0x00 ∧ (∀ a, 24 * n.toNat < a → t.buf.read a = none) ∧
    t.buf.wf ∧ Answered .none 0 t ∧ t.trace = s.trace ∧ t.configured = s.configured ∧ t.drawn = s.drawn ∧
    t.fault = s.fault ∧ t.cause = s.cause ∧ t.callerErr = s.callerErr ∧ t.params = s.params ∧
    t.serial = s.serial ∧ InputsKept s t

/-- R91: CONSTRUCT with AUTODRAW = 1 completes, when the interface accepts it all: as above, and it emits one configure
request and then the blank frame, which is what a DRAW would send. -/
def Obligations.ConstructAutodrawCompletes : Prop := ∀ (n : Half) (s : State),
  s.constructed = false → 1 ≤ n.toNat → n.toNat ≤ s.params.maxPixels →
  serialDone (.construct true n) s = true →
  ∃ t, exec (.construct true n) s = .next t ∧ t.constructed = true ∧ t.frameSize = n ∧
    (∀ a < 24 * n.toNat, t.buf.read a = some s.params.zeroByte) ∧
    t.buf.read (24 * n.toNat) = some 0x00 ∧ (∀ a, 24 * n.toNat < a → t.buf.read a = none) ∧
    t.trace = s.trace ++ [.configure .msbFirst s.params.spiClockKhz, .write t.frame] ∧
    t.frame = List.replicate (24 * n.toNat) s.params.zeroByte ++ [0x00] ∧
    t.configured = true ∧ t.drawn = true ∧ Answered .none 0 t ∧ t.fault = s.fault ∧ t.cause = s.cause ∧
    t.callerErr = s.callerErr ∧ t.params = s.params ∧ t.serial = s.serial.advance ∧ InputsKept s t

/-- R94: the state after a successful CONSTRUCT: the pixel bytes ZERO_BYTE, the trailer 0x00, STATUS[2:0] 0b001 or
0b111, STATUS[7:3] as before, so STATUS is 0x0001 or 0x0007 exactly where no earlier command faulted. -/
def Obligations.StatusAfterConstruct : Prop := ∀ (autoDraw : Bool) (n : Half) (s t : State), RunInv s →
  exec (.construct autoDraw n) s = .next t → faultOf (.construct autoDraw n) s = .none →
  (autoDraw = true → serialDone (.construct autoDraw n) s = true) →
  (∀ a < 24 * n.toNat, t.buf.read a = some s.params.zeroByte) ∧ t.buf.read (24 * n.toNat) = some 0x00 ∧
  t.statusWord.extractLsb' 0 3 = (if autoDraw = true then 0b111#3 else 0b001#3) ∧
  t.statusWord.extractLsb' 3 5 = s.statusWord.extractLsb' 3 5 ∧
  (t.statusWord = (if autoDraw = true then 0x0007#16 else 0x0001#16) ↔ s.fault = false) ∧
  (s.fault = true → s.cause = .notConstructed → autoDraw = false → t.statusWord = 0x0029#16)

/-! ### SET and FILL (42_pixel_writes.md) -/

/-- R100: SET of a valid index completes: slot `index` holds the block, green first; every other byte, every register and
the trailer are as before; the diagnostics due are appended; the response carries their bits. -/
def Obligations.SetCompletes : Prop := ∀ (index red green blue : Half) (s : State),
  s.constructed = true → index.toNat < s.frameSize.toNat → s.buf.wf →
  ∃ t, exec (.set index red green blue) s = .next t ∧
    (∀ k < 24, t.buf.read (24 * index.toNat + k) =
      (wave s.params (coerce green).1 ++ wave s.params (coerce red).1 ++ wave s.params (coerce blue).1)[k]?) ∧
    BufferKeptOutside s t (24 * index.toNat) (24 * index.toNat + 24) ∧ t.buf.wf ∧
    t.trace = s.trace ++ ((if (coerce red).2 then [.diag .red red] else []) ++
      (if (coerce green).2 then [.diag .green green] else []) ++
      (if (coerce blue).2 then [.diag .blue blue] else [])) ∧
    Answered .none (BitVec.ofBool (coerce red).2 ++ BitVec.ofBool (coerce green).2 ++
      BitVec.ofBool (coerce blue).2 : BitVec 3) t ∧
    RegistersKept s t ∧ t.serial = s.serial ∧ InputsKept s t

/-- R103, R104: FILL completes where both resolved bounds are inside: every slot from the lower to the higher bound holds
the block, every other byte and every register is as before, and each diagnostic due is appended once. -/
def Obligations.FillCompletes : Prop :=
  ∀ (hasStart hasEnd : Bool) (start stop red green blue : Half) (s : State) (first last : Nat),
  s.constructed = true → s.buf.wf →
  first = (if hasStart = true then start.toNat else 0) →
  last = (if hasEnd = true then stop.toNat else s.frameSize.toNat - 1) →
  first < s.frameSize.toNat → last < s.frameSize.toNat →
  ∃ t, exec (.fill hasStart hasEnd start stop red green blue) s = .next t ∧
    (∀ p, min first last ≤ p → p ≤ max first last → ∀ k < 24, t.buf.read (24 * p + k) =
      (wave s.params (coerce green).1 ++ wave s.params (coerce red).1 ++ wave s.params (coerce blue).1)[k]?) ∧
    BufferKeptOutside s t (24 * min first last) (24 * max first last + 24) ∧ t.buf.wf ∧
    t.trace = s.trace ++ ((if (coerce red).2 then [.diag .red red] else []) ++
      (if (coerce green).2 then [.diag .green green] else []) ++
      (if (coerce blue).2 then [.diag .blue blue] else [])) ∧
    Answered .none (BitVec.ofBool (coerce red).2 ++ BitVec.ofBool (coerce green).2 ++
      BitVec.ofBool (coerce blue).2 : BitVec 3) t ∧
    RegistersKept s t ∧ t.serial = s.serial ∧ InputsKept s t

/-- R105: reversed arguments give the same result: the same buffer, diagnostics and response, in every state. -/
def Obligations.FillReversedArguments : Prop := ∀ (start stop red green blue : Half) (s : State),
  exec (.fill true true start stop red green blue) s = exec (.fill true true stop start red green blue) s

/-- R102: SET and FILL, whatever their outcome, write only the slots they name, never transmit, and never change
FRAMESIZE, CONSTRUCTED, CONFIGURED or DRAWN. -/
def Obligations.PixelWritesTouchNamedSlotsOnly : Prop := ∀ (i : Instr) (s t : State) (first last : Nat),
  s.buf.wf →
  ((∃ index red green blue : Half, i = .set index red green blue ∧ first = index.toNat ∧ last = index.toNat) ∨
    (∃ (hasStart hasEnd : Bool) (start stop red green blue : Half),
      i = .fill hasStart hasEnd start stop red green blue ∧
      first = min (fillStart hasStart start) (fillEnd hasEnd stop s.frameSize.toNat) ∧
      last = max (fillStart hasStart start) (fillEnd hasEnd stop s.frameSize.toNat))) →
  exec i s = .next t →
  (∀ a, t.buf.read a ≠ s.buf.read a → 24 * first ≤ a ∧ a < 24 * last + 24 ∧ a < 24 * s.frameSize.toNat) ∧
  (∃ new : List Event, t.trace = s.trace ++ new ∧ ∀ e ∈ new, e.isDiag = true) ∧
  t.frameSize = s.frameSize ∧ t.constructed = s.constructed ∧ t.configured = s.configured ∧ t.drawn = s.drawn

/-- R106: a SET or FILL that faults, on a bound or otherwise, leaves the buffer exactly as it was and emits no
diagnostic. -/
def Obligations.FaultedWriteChangesNoByte : Prop := ∀ (s : State) (red green blue : Half),
  (∀ index : Half, s.constructed = true → s.frameSize.toNat ≤ index.toNat →
    ∃ t, exec (.set index red green blue) s = .next t ∧ Answered .indexRange 0 t ∧ t.fault = true ∧
      t.cause = .indexRange ∧ t.buf = s.buf ∧ t.trace = s.trace) ∧
  (∀ (hasStart hasEnd : Bool) (start stop : Half), s.constructed = true →
    (s.frameSize.toNat ≤ fillStart hasStart start ∨
      s.frameSize.toNat ≤ fillEnd hasEnd stop s.frameSize.toNat) →
    ∃ t, exec (.fill hasStart hasEnd start stop red green blue) s = .next t ∧ Answered .fillRange 0 t ∧
      t.fault = true ∧ t.cause = .fillRange ∧ t.buf = s.buf ∧ t.trace = s.trace) ∧
  (∀ (i : Instr) (t : State), ((∃ index : Half, i = .set index red green blue) ∨
      (∃ (hasStart hasEnd : Bool) (start stop : Half), i = .fill hasStart hasEnd start stop red green blue)) →
    faultOf i s ≠ .none → exec i s = .next t → t.buf = s.buf ∧ t.trace = s.trace)

/-- R107: no SET or FILL writes the trailer: every byte it changes is below 24·N, and the trailer stays 0x00. -/
def Obligations.TrailerNeverWritten : Prop := ∀ (i : Instr) (s t : State), RunInv s → s.constructed = true →
  ((∃ index red green blue : Half, i = .set index red green blue) ∨
    (∃ (hasStart hasEnd : Bool) (start stop red green blue : Half),
      i = .fill hasStart hasEnd start stop red green blue)) →
  exec i s = .next t →
  (∀ a, t.buf.read a ≠ s.buf.read a → a ≤ 24 * s.frameSize.toNat - 1) ∧
  t.buf.read (24 * t.frameSize.toNat) = some 0x00

/-- R48 (d): SET and FILL are idempotent: repeating one leaves the same buffer and emits its diagnostics again. -/
def Obligations.PixelWritesIdempotent : Prop := ∀ (i : Instr) (s t u : State), s.buf.wf →
  ((∃ index red green blue : Half, i = .set index red green blue) ∨
    (∃ (hasStart hasEnd : Bool) (start stop red green blue : Half),
      i = .fill hasStart hasEnd start stop red green blue)) →
  exec i s = .next t → exec i t = .next u →
  BufferKept t u ∧ ∃ new, t.trace = s.trace ++ new ∧ u.trace = t.trace ++ new

/-- R108: the sequencer's form of a write (`blk[SEQ_ADDR mod 24]` at ascending addresses) equals the slot form of R100
and R103. -/
def Obligations.SequencerFormAgrees : Prop := ∀ (m : Memory) (lo count : Nat) (blk : List Byte),
  blk.length = 24 → m.fillSlots lo count blk = m.sequencerWrite blk (sequencerAddresses lo count)

/-- R109: no address of a pixel write overflows: for a valid index the slot's last address is below the trailer and fits
in ADDR_W bits; and no index or bound at or above N, 0xFFFF (R62's −1) among them, aliases a byte: it faults. -/
def Obligations.SlotAddressesExact : Prop := ∀ s : State, RunInv s → s.constructed = true →
  (∀ index < s.frameSize.toNat, 24 * index ≤ 24 * (s.params.maxPixels - 1) ∧
    24 * index + 23 ≤ 24 * s.frameSize.toNat - 1 ∧ 24 * s.frameSize.toNat - 1 < 2 ^ s.params.addrWidth) ∧
  (∀ index red green blue : Half, s.frameSize.toNat ≤ index.toNat →
    ∃ t, exec (.set index red green blue) s = .next t ∧ Answered .indexRange 0 t ∧ t.fault = true ∧
      t.cause = .indexRange ∧ BufferKept s t ∧ t.trace = s.trace) ∧
  (∀ red green blue : Half, ∃ t, exec (.set 0xFFFF red green blue) s = .next t ∧ Answered .indexRange 0 t ∧
    t.fault = true ∧ t.cause = .indexRange ∧ BufferKept s t ∧ t.trace = s.trace) ∧
  (∀ (hasStart hasEnd : Bool) (start stop red green blue : Half),
    s.frameSize.toNat ≤ (if hasStart = true then start.toNat else 0) ∨
      s.frameSize.toNat ≤ (if hasEnd = true then stop.toNat else s.frameSize.toNat - 1) →
    ∃ t, exec (.fill hasStart hasEnd start stop red green blue) s = .next t ∧ Answered .fillRange 0 t ∧
      t.fault = true ∧ t.cause = .fillRange ∧ BufferKept s t ∧ t.trace = s.trace)

/-- R6: ADDR_W is the least width with 2^w ≥ 24·MAX_PIXELS + 1, and 21 for MAX_PIXELS = 65535. -/
def Obligations.AddressWidthLeast : Prop := ∀ c : Config, c.wf = true →
  24 * c.maxPixels + 1 ≤ 2 ^ c.addrWidth ∧ (∀ w, 24 * c.maxPixels + 1 ≤ 2 ^ w → c.addrWidth ≤ w) ∧
  c.addrWidth ≤ 21 ∧ (c.maxPixels = 65535 → c.addrWidth = 21)

/-! ### DRAW and CONFIGURE (43_transmit.md) -/

/-- R120, R121: DRAW completes, when the interface accepts the frame: one Write event with exactly the bytes
Buf[0..L−1] in ascending order, DRAWN, CALLER_ERR where the interface was not configured; the buffer is not changed. -/
def Obligations.DrawCompletes : Prop := ∀ s : State, s.constructed = true →
  (∀ a < s.bufLen, (s.buf.read a).isSome = true) → serialDone .draw s = true →
  ∃ t bytes, exec .draw s = .next t ∧ t.trace = s.trace ++ [.write bytes] ∧
    bytes.length = 24 * s.frameSize.toNat + 1 ∧ (∀ a < bytes.length, bytes[a]? = s.buf.read a) ∧
    t.drawn = true ∧ t.configured = s.configured ∧
    t.callerErr = (s.callerErr || (!s.configured && !s.params.extConfigured)) ∧
    t.buf = s.buf ∧ t.constructed = s.constructed ∧ t.frameSize = s.frameSize ∧ t.fault = s.fault ∧
    t.cause = s.cause ∧ t.params = s.params ∧ Answered .none 0 t ∧ t.serial = s.serial.advance ∧
    InputsKept s t

/-- R124, R125: CONFIGURE completes, when the interface accepts it: one Configure(MSB_FIRST, SPI_CLOCK_KHZ) event,
CONFIGURED, CALLER_ERR where the block had configured or drawn before; nothing is transmitted, no byte changes. -/
def Obligations.ConfigureCompletes : Prop := ∀ s : State, s.constructed = true →
  serialDone .configure s = true →
  ∃ t, exec .configure s = .next t ∧
    t.trace = s.trace ++ [.configure .msbFirst s.params.spiClockKhz] ∧
    t.configured = true ∧ t.drawn = s.drawn ∧ t.callerErr = (s.callerErr || (s.configured || s.drawn)) ∧
    t.buf = s.buf ∧ t.constructed = s.constructed ∧ t.frameSize = s.frameSize ∧ t.fault = s.fault ∧
    t.cause = s.cause ∧ t.params = s.params ∧ Answered .none 0 t ∧ t.serial = s.serial.advance ∧
    InputsKept s t

/-- R122, R126, R35: while the interface has not accepted everything, a DRAW, a CONFIGURE or a CONSTRUCT with AUTODRAW
holds: no register but SEQ_ADDR, no byte, no event and no response changes; only the count of accepted handshakes
grows. Two of these are the model's choice (log entry 5): that the Configure event of a CONSTRUCT waits for its frame
too, and that CALLER_ERR is as before while a DRAW or CONFIGURE is held. -/
def Obligations.HeldCommandShowsNothing : Prop := ∀ (i : Instr) (s : State),
  waitsOnSerial i = true → faultOf i s = .none → serialDone i s = false →
  (∀ a < s.bufLen, s.constructed = true → (s.buf.read a).isSome = true) →
  ∃ t, exec i s = .next t ∧ RegistersKept s t ∧ t.buf = s.buf ∧ t.trace = s.trace ∧
    t.response = s.response ∧ t.inFlight = s.inFlight ∧ t.statusWord = s.statusWord ∧
    s.accepted ≤ t.accepted ∧ t.accepted < configuresOf i + frameBytesOf i s ∧ InputsKept s t

/-- R121, R126, R91: the handshakes a command in progress owes the serial interface are those of the events it records
when it completes, and while it is held it offers the next one it has not had accepted. -/
def Obligations.HandshakesAreTheEvents : Prop := ∀ (i : Instr) (s t : State),
  faultOf i s = .none → exec i s = .next t →
  (serialDone i s = true → (newEvents s t).flatMap Event.serialBeats = serialBeatsOf i s) ∧
  (serialDone i s = false → s.accepted ≤ t.accepted ∧ t.accepted < (serialBeatsOf i s).length ∧
    ∀ w, s.inFlight = some w → decode w = .ok i → t.offeredBeat = (serialBeatsOf i s)[t.accepted]?)

/-- R22: while a DRAW is held, SEQ_ADDR holds the address of the next byte to be read, below L. -/
def Obligations.HeldDrawSeqAddr : Prop := ∀ s t : State, RunInv s → s.constructed = true →
  serialDone .draw s = false → exec .draw s = .next t →
  t.seqAddr.toNat = t.accepted ∧ t.accepted < s.bufLen

/-- R9, R51: while a command is in progress the block accepts no other: a step takes nothing from the host's streams
and runs the word in progress. -/
def Obligations.BusyPortTakesNoCommand : Prop := ∀ (s t : State) (w : CmdWord), s.rst = false →
  s.inFlight = some w → step s = .next t →
  t.streams = s.streams ∧ (t.inFlight = some w ∨ t.inFlight = none) ∧
  ∀ other : List (List CmdWord), step { s with streams := other } = .next { t with streams := other }

/-- R128 (a), R122: a DRAW in progress completes, with its frame sent, once an interface that goes on accepting has been
waited for: within as many steps as it still stalls, and one more (the model's form of the interface, log entry 3). -/
def Obligations.DrawEventuallyCompletes : Prop := ∀ (s : State) (w : CmdWord), RunInv s → s.rst = false →
  s.constructed = true → s.inFlight = some w → decode w = .ok .draw → s.serial.fair = true →
  ∃ k ≤ s.serial.grants.length + 1, ∃ t, Sys2Proof.core.run k s = .next t ∧
    t.trace = s.trace ++ [.write s.frame] ∧ t.drawn = true ∧ t.inFlight = none ∧ t.buf = s.buf

/-- R122: if the interface never accepts another byte, a DRAW in progress never completes: after any number of steps it
is still in progress, no frame is recorded, and no further command has been accepted. -/
def Obligations.StalledDrawHangs : Prop := ∀ (s : State) (w : CmdWord), s.rst = false →
  s.constructed = true → s.inFlight = some w → decode w = .ok .draw → s.frame.length = s.bufLen →
  s.serial = { grants := [], fair := false } → s.accepted < s.bufLen →
  ∀ k, ∃ t, Sys2Proof.core.run k s = .next t ∧ t.inFlight = some w ∧ t.trace = s.trace ∧
    t.drawn = s.drawn ∧ t.response = s.response ∧ t.streams = s.streams

/-- R167, R50: a DRAW after a SET sends the bytes the SET wrote, and every other byte as it stood before. -/
def Obligations.DrawSendsWhatSetWrote : Prop := ∀ (index red green blue : Half) (s t u : State), RunInv s →
  s.constructed = true → index.toNat < s.frameSize.toNat →
  exec (.set index red green blue) s = .next t → serialDone .draw t = true → exec .draw t = .next u →
  ∃ bytes, u.trace = t.trace ++ [.write bytes] ∧ bytes.length = s.bufLen ∧
    (∀ k < 24, bytes[24 * index.toNat + k]? = (block s.params red green blue)[k]?) ∧
    (∀ a < s.bufLen, ¬ (24 * index.toNat ≤ a ∧ a < 24 * index.toNat + 24) → bytes[a]? = s.buf.read a)

/-- R121: a frame's burst carries its bytes in order, with `tx_last` high on the last byte only. -/
def Obligations.TxLastMarksTrailer : Prop := ∀ bytes : List Byte,
  (txBurst bytes).map TxBeat.data = bytes ∧
  ∀ k < bytes.length, (txBurst bytes)[k]?.map TxBeat.last = some (decide (k + 1 = bytes.length))

/-- R45, R172: on the wire bit 8·k + j of a frame is bit 7 − j of its byte k, and a frame occupies 8 bit periods a
byte. -/
def Obligations.WireBitOrder : Prop := ∀ bytes : List Byte,
  (wireBits bytes).length = lineBitPeriods bytes ∧
  ∀ k < bytes.length, ∀ j < 8,
    (wireBits bytes)[8 * k + j]? = (bytes[k]?).map fun b => b.getLsbD (7 - j)

/-! ### Faults and the status register (60_exceptions.md, 10_state.md) -/

/-- R142, R143: a command word whose check fails, illegal or legal, reports the first failing check in R143's order and
has no other effect: FAULT and CAUSE, the response with `rsp_diag` 0; no byte, no register, no event. -/
def Obligations.FaultHasNoOtherEffect : Prop := ∀ (w : CmdWord) (s : State), faultOfWord w s ≠ .none →
  ∃ t, runWord w s = .next t ∧ t.fault = true ∧ t.cause = faultOfWord w s ∧ Answered (faultOfWord w s) 0 t ∧
    t.buf = s.buf ∧ t.frameSize = s.frameSize ∧ t.constructed = s.constructed ∧
    t.configured = s.configured ∧ t.drawn = s.drawn ∧ t.callerErr = s.callerErr ∧ t.trace = s.trace ∧
    t.params = s.params ∧ t.serial = s.serial ∧ InputsKept s t

/-- R147, R28: FAULT is sticky: no step but reset clears it, and CAUSE changes only to the cause of a later fault, which
the step's response reports. -/
def Obligations.FaultIsSticky : Prop := ∀ s t : State, s.rst = false → step s = .next t →
  (s.fault = true → t.fault = true) ∧
  (t.cause ≠ s.cause → t.fault = true ∧ t.response = some { status := t.cause, diag := 0 })

/-- R24: the fields of STATUS, bit by bit; the reserved bits read 0, and CAUSE is one of the codes 0 to 6, each cause with
its code of R140. -/
def Obligations.StatusLayout : Prop := ∀ s : State,
  s.statusWord.getLsbD 0 = s.constructed ∧ s.statusWord.getLsbD 1 = s.configured ∧
  s.statusWord.getLsbD 2 = s.drawn ∧ s.statusWord.getLsbD 3 = s.fault ∧
  s.statusWord.extractLsb' 4 4 = s.cause.code ∧ s.statusWord.extractLsb' 8 8 = 0 ∧ s.cause.code.toNat ≤ 6 ∧
  (s.cause = .none ↔ s.statusWord.extractLsb' 4 4 = 0) ∧
  (s.cause = .illegalCommand ↔ s.statusWord.extractLsb' 4 4 = 1) ∧
  (s.cause = .notConstructed ↔ s.statusWord.extractLsb' 4 4 = 2) ∧
  (s.cause = .alreadyConstructed ↔ s.statusWord.extractLsb' 4 4 = 3) ∧
  (s.cause = .badFrameSize ↔ s.statusWord.extractLsb' 4 4 = 4) ∧
  (s.cause = .indexRange ↔ s.statusWord.extractLsb' 4 4 = 5) ∧
  (s.cause = .fillRange ↔ s.statusWord.extractLsb' 4 4 = 6) ∧
  Cause.none.code = 0 ∧ Cause.illegalCommand.code = 1 ∧ Cause.notConstructed.code = 2 ∧
  Cause.alreadyConstructed.code = 3 ∧ Cause.badFrameSize.code = 4 ∧ Cause.indexRange.code = 5 ∧
  Cause.fillRange.code = 6

/-- R25, R23: no step but reset clears CONSTRUCTED or changes FRAMESIZE after it. -/
def Obligations.ConstructionIsPermanent : Prop := ∀ s t : State, s.rst = false → s.constructed = true →
  step s = .next t → t.constructed = true ∧ t.frameSize = s.frameSize

/-- R26: CONFIGURED and DRAWN are set by each event of their kind and cleared by no step but reset. -/
def Obligations.FlagsRecordEvents : Prop := ∀ s t : State, s.rst = false → step s = .next t →
  ∃ new, t.trace = s.trace ++ new ∧ t.configured = (s.configured || new.any Event.isConfigure) ∧
    t.drawn = (s.drawn || new.any Event.isWrite)

/-- R27, R148: CALLER_ERR is set only by a DRAW with the interface not configured, or a CONFIGURE after one or after a
frame, and nothing but reset clears it. -/
def Obligations.CallerErrOnlyByCallerErrors : Prop := ∀ (i : Instr) (s t : State), exec i s = .next t →
  (s.callerErr = true → t.callerErr = true) ∧
  (t.callerErr ≠ s.callerErr → s.constructed = true ∧
    ((i = .draw ∧ s.configured = false ∧ s.params.extConfigured = false) ∨
      (i = .configure ∧ (s.configured = true ∨ s.drawn = true))))

/-- R27, R22: the block's behaviour depends neither on the ghost CALLER_ERR nor on SEQ_ADDR: two machines that differ only
in them take steps that differ only in them. -/
def Obligations.GhostStateIsUnread : Prop := ∀ s s' : State, s.forget = s'.forget →
  forgetOutcome (step s) = forgetOutcome (step s')

/-- R82: no step, not even reset, changes the ROM; nor the parameters, which is the model's form of R7 (log entry 1). -/
def Obligations.ParametersNeverChange : Prop := ∀ s t : State, step s = .next t →
  t.params = s.params ∧ ∀ v i, romByte t.params v i = romByte s.params v i

/-! ### The machine (00_scope.md R8, 10_state.md R30, R31, 43_transmit.md R128) -/

/-- R8: a step accepts the one command presented, or goes on with the one in progress, and runs what it decodes to. The
port's bookkeeping is `State.accept`: the word in progress, no handshake yet, the word off its stream. -/
def Obligations.StepRunsDecodedCommand : Prop := ∀ (s : State) (w : CmdWord) (i : Instr),
  s.rst = false → decode w = .ok i →
  (s.inFlight = none → s.presented = [w] →
    step s = exec i { s with inFlight := some w, accepted := 0, streams := s.streams.map List.tail }) ∧
  (s.inFlight = some w → step s = exec i s)

/-- R65, R142: an illegal word presented to the block faults with ILLEGAL_COMMAND, in every state, and has no other
effect. -/
def Obligations.IllegalWordFaults : Prop := ∀ (s : State) (w : CmdWord) (e : Illegal),
  s.rst = false → s.inFlight = none → s.presented = [w] → decode w = .error e →
  ∃ t, step s = .next t ∧ t.fault = true ∧ t.cause = .illegalCommand ∧ Answered .illegalCommand 0 t ∧
    t.buf = s.buf ∧ t.frameSize = s.frameSize ∧ t.constructed = s.constructed ∧
    t.configured = s.configured ∧ t.drawn = s.drawn ∧ t.callerErr = s.callerErr ∧ t.trace = s.trace ∧
    t.params = s.params ∧ t.serial = s.serial ∧ t.rst = s.rst ∧ t.streams = s.streams.map List.tail

/-- R9: a command the block has accepted gives exactly one response, in the step that ends it; a step that leaves it in
progress gives none, and so does a step that runs no command. The response that stands in between is the model's
choice (log entry 10). -/
def Obligations.OneResponsePerCommand : Prop := ∀ s t : State, s.rst = false → step s = .next t →
  (s.inFlight = none → s.presented = [] → responseGiven s t = none) ∧
  (s.inFlight.isSome = true ∨ s.presented ≠ [] →
    (t.inFlight = none ∧ ∃ r, responseGiven s t = some r ∧ t.response = some r) ∨
    (t.inFlight.isSome = true ∧ responseGiven s t = none ∧ t.response = s.response))

/-- The host's withFetchWord places exactly one command: the next step runs it, in the state before with the port's inputs
set and nothing else changed (log entry 2). -/
def Obligations.FetchWordRunsNext : Prop := ∀ (s : State) (w : Nat) (i : Instr),
  decodeTableWord 96 w = some i →
  step (s.withFetchWord 96 w) = exec i
    { s with rst := false, inFlight := some (BitVec.ofNat 96 w), accepted := 0, streams := [s.streams.headD []] }

/-- R154: with no command presented or in progress the block is idle and its state persists. -/
def Obligations.IdleStatePersists : Prop := ∀ s : State, s.rst = false → s.inFlight = none →
  s.presented = [] → step s = .next s

/-- R152: two commands presented at once to one instance are refused, by name, and nothing else is refused. What counts
as at once is the model's (log entry 12). -/
def Obligations.ConcurrentCommandsRefused : Prop := ∀ s : State,
  (∃ r, step s = .refused r) ↔ s.rst = false ∧ s.inFlight = none ∧ 2 ≤ s.presented.length

/-- In every state of the invariant a step ends in a next state, or in the refusal of R152: no command of the block
stops it (R142), whatever its word, its operands and the serial interface. -/
def Obligations.NoCommandStopsTheBlock : Prop := ∀ s : State, RunInv s →
  (∃ t, step s = .next t) ∨ (step s = .refused .concurrentCommands ∧ 2 ≤ s.presented.length)

/-- The invariant and the serial contract hold at reset. -/
def Obligations.ResetMeetsInvariant : Prop := RunInv State.reset ∧ SerialContract State.reset

/-- R30, R31 and the invariant's other clauses: every step from a state of the invariant ends in one. -/
def Obligations.StepKeepsInvariant : Prop := ∀ s t : State, RunInv s → step s = .next t → RunInv t

/-- R128, R123, R125: what the block owes the serial interface while CALLER_ERR = 0 is kept by every step. -/
def Obligations.StepKeepsSerialContract : Prop := ∀ s t : State, RunInv s → SerialContract s →
  step s = .next t → SerialContract t

/-- R151: a step of one instance changes no other instance. -/
def Obligations.InstancesDoNotInteract : Prop := ∀ (sys sys' : System) (k : Fin sys.length) (j : Nat),
  systemStep sys k = .next sys' → j ≠ k.val → sys'[j]? = sys[j]? ∧ sys'.length = sys.length

end Statements
end

