-- ==== Sys2Proof/Laws/Memory.lean ====
section
/-! SUPPORT. What the frame-buffer operations do: each write keeps the canonical form, and what a byte reads as
after it. Proofs cite these and do not unfold the operations. -/

namespace Sys2Proof.Machine

open Memory

/-! ### One byte -/

@[simp] theorem read_nil (a : Nat) : Memory.read [] a = none := rfl

theorem mem_of_read {m : Memory} {a : Nat} {v : Byte} (h : m.read a = some v) : (a, v) ∈ m := by
  induction m with
  | nil => simp at h
  | cons c m ih =>
    obtain ⟨k, u⟩ := c
    rw [Memory.read] at h
    split at h
    · next e => subst e; simp_all
    · exact List.mem_cons_of_mem _ (ih h)

/-- Reading back a byte just written, and every other byte. -/
theorem read_write (m : Memory) (hm : m.wf) (a b : Nat) (v : Byte) :
    (m.write a v).read b = if b = a then some v else m.read b := by
  induction m with
  | nil => simp [Memory.write, Memory.read]
  | cons c m ih =>
    obtain ⟨k, u⟩ := c
    have hm' : Memory.wf m := (List.pairwise_cons.mp hm).2
    rw [Memory.write]
    split
    · rw [Memory.read]
    · split
      · next e => subst e; simp only [Memory.read]; split <;> rfl
      · simp only [Memory.read, ih hm']
        split <;> split <;> simp_all

/-- Every address after a write was there before, or is the one written. -/
theorem fst_mem_write {m : Memory} {a k : Nat} {v : Byte} (h : k ∈ (m.write a v).map Prod.fst) :
    k = a ∨ k ∈ m.map Prod.fst := by
  induction m with
  | nil => simp_all [Memory.write]
  | cons c m ih =>
    obtain ⟨j, u⟩ := c
    rw [Memory.write] at h
    split at h
    · simpa using h
    · split at h
      · next e => subst e; simp at h ⊢; tauto
      · simp only [List.map_cons, List.mem_cons] at h ⊢
        rcases h with h | h
        · exact .inr (.inl h)
        · rcases ih h with h | h
          · exact .inl h
          · exact .inr (.inr h)

/-- A write keeps the canonical form. -/
theorem wf_write (m : Memory) (hm : m.wf) (a : Nat) (v : Byte) : (m.write a v).wf := by
  induction m with
  | nil => simp [Memory.write, Memory.wf]
  | cons c m ih =>
    obtain ⟨k, u⟩ := c
    have ⟨hk, hm'⟩ := List.pairwise_cons.mp hm
    rw [Memory.write]
    split
    · next hlt =>
      refine List.pairwise_cons.mpr ⟨fun x hx => ?_, hm⟩
      rcases List.mem_cons.mp hx with rfl | hx
      · exact hlt
      · exact Nat.lt_trans hlt (hk x hx)
    · split
      · next e => subst e; exact hm
      · next hge hne =>
        refine List.pairwise_cons.mpr ⟨fun x hx => ?_, ih hm'⟩
        rcases fst_mem_write hx with rfl | hx
        · show k < x
          omega
        · exact hk x hx

/-! ### Runs of bytes -/

theorem wf_writeBytes (m : Memory) (hm : m.wf) (a : Nat) (bs : List Byte) : (m.writeBytes a bs).wf := by
  induction bs generalizing m a with
  | nil => exact hm
  | cons b bs ih => exact ih _ (wf_write m hm a b) _

/-- A run of bytes reads back from its addresses, and every other byte is as before. -/
theorem read_writeBytes (m : Memory) (hm : m.wf) (a : Nat) (bs : List Byte) (x : Nat) :
    (m.writeBytes a bs).read x =
      if a ≤ x ∧ x < a + bs.length then bs[x - a]? else m.read x := by
  induction bs generalizing m a with
  | nil =>
    have : ¬ (a ≤ x ∧ x < a + ([] : List Byte).length) := by simp
    rw [if_neg this]; rfl
  | cons b bs ih =>
    rw [Memory.writeBytes, ih _ (wf_write m hm a b), read_write m hm]
    simp only [List.length_cons]
    by_cases hx : x = a
    · subst hx
      rw [if_neg (by omega), if_pos rfl, if_pos (by omega)]
      simp
    · by_cases h1 : a + 1 ≤ x ∧ x < a + 1 + bs.length
      · rw [if_pos h1, if_pos (by omega)]
        obtain ⟨d, rfl⟩ : ∃ d, x = a + 1 + d := ⟨x - (a + 1), by omega⟩
        rw [show a + 1 + d - (a + 1) = d by omega, show a + 1 + d - a = d + 1 by omega]
        simp
      · rw [if_neg h1, if_neg hx, if_neg (by omega)]

/-! ### Pixel slots -/

theorem wf_fillSlots (m : Memory) (hm : m.wf) (lo count : Nat) (blk : List Byte) :
    (m.fillSlots lo count blk).wf := by
  induction count generalizing m lo with
  | zero => exact hm
  | succ n ih => exact ih _ (wf_writeBytes m hm _ blk) _

/-- After a fill, the named slots hold the block and every other byte is as before (R43, R102). -/
theorem read_fillSlots (m : Memory) (hm : m.wf) (lo count : Nat) (blk : List Byte) (hb : blk.length = 24)
    (x : Nat) :
    (m.fillSlots lo count blk).read x =
      if 24 * lo ≤ x ∧ x < 24 * (lo + count) then blk[x % 24]? else m.read x := by
  induction count generalizing m lo with
  | zero =>
    rw [if_neg (by omega)]; rfl
  | succ n ih =>
    rw [Memory.fillSlots, ih _ (wf_writeBytes m hm _ blk), read_writeBytes m hm, hb]
    by_cases h1 : 24 * (lo + 1) ≤ x ∧ x < 24 * (lo + 1 + n)
    · rw [if_pos h1, if_pos (by omega)]
    · rw [if_neg h1]
      by_cases h2 : 24 * lo ≤ x ∧ x < 24 * lo + 24
      · rw [if_pos h2, if_pos (by omega), show x - 24 * lo = x % 24 by omega]
      · rw [if_neg h2, if_neg (by omega)]

/-! ### A whole buffer -/

theorem wf_zeroBuffer (length : Nat) : (zeroBuffer length).wf := by
  simp only [zeroBuffer, Memory.wf, List.map_map]
  have : (Prod.fst ∘ fun a => ((a, 0x00) : Host.Cell)) = id := rfl
  rw [this, List.map_id]
  exact List.pairwise_lt_range

theorem read_zeroBuffer (length x : Nat) :
    (zeroBuffer length).read x = if x < length then some 0x00 else none := by
  have aux : ∀ l : List Nat, Memory.read (l.map fun a => (a, 0x00)) x =
      if x ∈ l then some 0x00 else none := by
    intro l
    induction l with
    | nil => rfl
    | cons a l ih =>
      simp only [List.map_cons, Memory.read, ih, List.mem_cons]
      split <;> split <;> simp_all
  simpa [zeroBuffer] using aux (List.range length)

/-- A filterMap in which every element has a value is as long as its list, and its elements are those values. -/
theorem filterMap_range_getElem? {f : Nat → Option Byte} {n : Nat} (h : ∀ k < n, (f k).isSome = true)
    (k : Nat) : ((List.range n).filterMap f)[k]? = if k < n then f k else none := by
  have hlen : ∀ m ≤ n, ((List.range m).filterMap f).length = m := by
    intro m hm
    induction m with
    | zero => rfl
    | succ m ih =>
      obtain ⟨v, hv⟩ := Option.isSome_iff_exists.mp (h m (by omega))
      rw [List.range_succ, List.filterMap_append, List.length_append, ih (by omega)]
      simp [hv]
  induction n with
  | zero => simp
  | succ n ih =>
    obtain ⟨v, hv⟩ := Option.isSome_iff_exists.mp (h n (by omega))
    have hn := hlen n (by omega)
    rw [List.range_succ, List.filterMap_append]
    by_cases hk : k < n
    · rw [List.getElem?_append_left (by omega), ih (fun j hj => h j (by omega))
        (fun m hm => hlen m (by omega)), if_pos hk, if_pos (by omega)]
    · rw [List.getElem?_append_right (by omega), hn]
      by_cases hk' : k = n
      · subst hk'; simp [hv]
      · rw [if_neg (by omega)]
        simp [hv]; omega

theorem length_filterMap_range {f : Nat → Option Byte} {n : Nat} (h : ∀ k < n, (f k).isSome = true) :
    ((List.range n).filterMap f).length = n := by
  apply Nat.le_antisymm
  · have := List.length_filterMap_le f (List.range n)
    simpa using this
  · by_contra hlt
    have hk := filterMap_range_getElem? h ((List.range n).filterMap f).length
    rw [if_pos (by omega), List.getElem?_eq_none (le_refl _)] at hk
    have := h _ (show ((List.range n).filterMap f).length < n by omega)
    rw [← hk] at this
    simp at this

/-- The frame of a buffer whose every byte has a value: its k-th byte is the byte at address k (R121). -/
theorem bytesBelow_getElem? {m : Memory} {n : Nat} (h : ∀ a < n, (m.read a).isSome = true) (k : Nat) :
    (m.bytesBelow n)[k]? = if k < n then m.read k else none :=
  filterMap_range_getElem? h k

theorem length_bytesBelow {m : Memory} {n : Nat} (h : ∀ a < n, (m.read a).isSome = true) :
    (m.bytesBelow n).length = n :=
  length_filterMap_range h

end Sys2Proof.Machine
end

