-- ==== Sys2Proof/Laws/Waveform.lean ====
section
/-! SUPPORT. The lengths and the bytes of waveforms and blocks, and what coercion gives. -/

namespace Sys2Proof.Machine

@[simp] theorem length_wave (c : Config) (v : Byte) : (wave c v).length = 8 := by
  simp [wave]

/-- Byte i of a waveform is chosen by bit 7 − i of the value (R81). -/
theorem wave_getElem? (c : Config) (v : Byte) (i : Nat) (hi : i < 8) :
    (wave c v)[i]? = some (bitByte c (v.getLsbD (7 - i))) := by
  obtain h | h | h | h | h | h | h | h : i = 0 ∨ i = 1 ∨ i = 2 ∨ i = 3 ∨ i = 4 ∨ i = 5 ∨ i = 6 ∨ i = 7 := by
    omega
  all_goals subst h; rfl

/-- A waveform is the waveform byte of each bit, most significant first. -/
theorem wave_eq_map (c : Config) (v : Byte) : wave c v = (bitsMsbFirst v).map (bitByte c) := by
  apply List.ext_getElem?
  intro i
  by_cases hi : i < 8
  · rw [wave_getElem? c v i hi]
    simp [bitsMsbFirst, hi]
  · rw [List.getElem?_eq_none (by simpa using hi), List.getElem?_eq_none (by simpa [bitsMsbFirst] using hi)]

@[simp] theorem length_block (c : Config) (red green blue : Half) : (block c red green blue).length = 24 := by
  simp [block]

/-- A value in range is kept, without a diagnostic (R85). -/
theorem coerce_in_range {x : Half} (h : 0 ≤ x.toInt ∧ x.toInt ≤ 255) : coerce x = (x.setWidth 8, false) :=
  if_pos h

/-- A value out of range becomes 255, with a diagnostic (R85). -/
theorem coerce_out_of_range {x : Half} (h : x.toInt < 0 ∨ 255 < x.toInt) : coerce x = (255, true) :=
  if_neg (by omega)

/-- Black is in range. -/
@[simp] theorem coerce_zero : coerce 0#16 = (0#8, false) := by decide

/-- The block of black is 24 times ZERO_BYTE (R92). -/
theorem block_black (c : Config) : block c 0 0 0 = List.replicate 24 c.zeroByte := by
  have h : wave c 0 = List.replicate 8 c.zeroByte := by
    simp [wave, romByte, List.finRange, List.ofFn_succ, List.replicate]
  have h0 : coerce 0 = (0, false) := coerce_zero
  simp only [block, h0, h, List.replicate_append_replicate]

end Sys2Proof.Machine
end

