-- ==== Sys2Proof/Laws/Buffer.lean ====
section
/-! SUPPORT. The blank buffer of CONSTRUCT, pixel slots, and the frame of a buffer all of whose bytes exist. -/

namespace Sys2Proof.Machine

theorem wf_blankBuffer (c : Config) (n : Nat) : (blankBuffer c n).wf :=
  wf_fillSlots _ (wf_zeroBuffer _) _ _ _

/-- The blank buffer byte by byte (R94): ZERO_BYTE in every slot, then the trailer 0x00, then nothing. -/
theorem read_blankBuffer (c : Config) (n x : Nat) : (blankBuffer c n).read x =
    if x < 24 * n then some c.zeroByte else if x = 24 * n then some 0x00 else none := by
  rw [blankBuffer, read_fillSlots _ (wf_zeroBuffer _) _ _ _ (length_block ..), read_zeroBuffer, block_black]
  by_cases h : x < 24 * n
  · rw [if_pos (by omega), if_pos h, List.getElem?_replicate, if_pos (by omega)]
  · rw [if_neg (by omega), if_neg h, bufferLength]
    by_cases h' : x = 24 * n
    · rw [if_pos (by omega), if_pos h']
    · rw [if_neg (by omega), if_neg h']

theorem isSome_read_blankBuffer (c : Config) (n x : Nat) :
    ((blankBuffer c n).read x).isSome = true ↔ x < bufferLength n := by
  rw [read_blankBuffer, bufferLength]
  split
  · simp; omega
  · split <;> simp <;> omega

/-- Two memories read alike below a length hold the same bytes there. -/
theorem bytesBelow_congr {m m' : Memory} {n : Nat} (h : ∀ a < n, m.read a = m'.read a) :
    m.bytesBelow n = m'.bytesBelow n := by
  unfold Memory.bytesBelow
  exact List.filterMap_congr fun a ha => h a (List.mem_range.mp ha)

/-- The blank frame (R91): 24·n times ZERO_BYTE, then 0x00. -/
theorem bytesBelow_blankBuffer (c : Config) (n : Nat) :
    (blankBuffer c n).bytesBelow (bufferLength n) = List.replicate (24 * n) c.zeroByte ++ [0x00] := by
  have hall : ∀ a < bufferLength n, ((blankBuffer c n).read a).isSome = true :=
    fun a ha => (isSome_read_blankBuffer c n a).mpr ha
  apply List.ext_getElem?
  intro k
  rw [bytesBelow_getElem? hall, read_blankBuffer, List.getElem?_append, List.length_replicate, bufferLength]
  by_cases h : k < 24 * n
  · rw [if_pos (by omega), if_pos h, if_pos h, List.getElem?_replicate, if_pos h]
  · rw [if_neg h, if_neg h]
    by_cases h' : k = 24 * n
    · rw [if_pos (by omega), if_pos h', h']; simp
    · rw [if_neg (by omega), List.getElem?_eq_none (by simp; omega)]

/-- A slot whose 24 bytes read as a list of 24 holds that list (R43). -/
theorem slot_eq {m : Memory} {p : Nat} {bs : List Byte} (hb : bs.length = 24)
    (h : ∀ k < 24, m.read (24 * p + k) = bs[k]?) : m.slot p = bs := by
  have hall : ∀ k < 24, (m.read (24 * p + k)).isSome = true := by
    intro k hk
    rw [h k hk, List.getElem?_eq_getElem (by omega)]; rfl
  apply List.ext_getElem?
  intro k
  rw [Memory.slot, filterMap_range_getElem? hall]
  by_cases hk : k < 24
  · rw [if_pos hk, h k hk]
  · rw [if_neg hk, List.getElem?_eq_none (by omega)]

/-- A slot that holds 24 bytes reads as them, one by one. -/
theorem read_of_slot {m : Memory} {p : Nat} {bs : List Byte} (hb : bs.length = 24) (h : m.slot p = bs)
    (k : Nat) (hk : k < 24) : m.read (24 * p + k) = bs[k]? := by
  have hall : ∀ j < 24, (m.read (24 * p + j)).isSome = true := by
    by_contra hno
    push Not at hno
    obtain ⟨j, hj, hn⟩ := hno
    have hlt : (m.slot p).length < (List.range 24).length := by
      rw [Memory.slot]
      refine Nat.lt_of_le_of_ne (List.length_filterMap_le _ _) fun heq => hn ?_
      exact List.filterMap_length_eq_length.mp heq j (List.mem_range.mpr hj)
    rw [h, hb] at hlt
    simp at hlt
  rw [← h, Memory.slot, filterMap_range_getElem? hall, if_pos hk]

/-- After a fill, a slot holds the block where it is named, and what it held elsewhere (R102). -/
theorem slot_fillSlots (m : Memory) (hm : m.wf) (lo count : Nat) (blk : List Byte) (hb : blk.length = 24)
    (p : Nat) :
    (m.fillSlots lo count blk).slot p = if lo ≤ p ∧ p < lo + count then blk else m.slot p := by
  split
  · next h =>
    refine slot_eq hb fun k hk => ?_
    rw [read_fillSlots m hm lo count blk hb, if_pos (by omega), show (24 * p + k) % 24 = k by omega]
  · next h =>
    unfold Memory.slot
    refine List.filterMap_congr fun k hk => ?_
    have := List.mem_range.mp hk
    rw [read_fillSlots m hm lo count blk hb, if_neg (by omega)]

end Sys2Proof.Machine
end

