-- ==== Sys2Proof/Laws/Config.lean ====
section
/-! SUPPORT. The parameters of `State.reset` are within R6's limits, and ADDR_W is the width R6 asks for. -/

namespace Sys2Proof.Laws

theorem config_board_wf : Config.board.wf = true := by
  simp [Config.wf, Config.board]

/-- 2^ADDR_W ≥ 24·MAX_PIXELS + 1 (R6). -/
theorem addrWidth_enough (c : Config) : bufferLength c.maxPixels ≤ 2 ^ c.addrWidth :=
  Nat.lt_log2_self (n := 24 * c.maxPixels)

/-- ADDR_W is the least such width (R6). -/
theorem addrWidth_least (c : Config) (h : 1 ≤ c.maxPixels) (w : Nat)
    (hw : bufferLength c.maxPixels ≤ 2 ^ w) : c.addrWidth ≤ w :=
  (Nat.log2_lt (by omega)).mpr hw

/-- ADDR_W is at most 21 (R6). -/
theorem addrWidth_le (c : Config) (h : c.wf = true) : c.addrWidth ≤ 21 := by
  simp only [Config.wf, Bool.and_eq_true, decide_eq_true_eq] at h
  exact addrWidth_least c h.1 21 (by simp only [bufferLength]; omega)

end Sys2Proof.Laws
end

