-- ==== Sys2Proof/Laws/Decode.lean ====
section
/-! SUPPORT. The fields of a packed word, one lemma each; a word is the pack of its fields; and flags against their
one-bit fields. -/

namespace Sys2Proof

section Fields
variable (op : BitVec 4) (f1 f0 : Bool) (a b cr cg cb : Half)

@[simp] theorem fieldOp_packWord : fieldOp (packWord op f1 f0 a b cr cg cb) = op := by
  apply BitVec.eq_of_getLsbD_eq
  intro i hi
  simp only [fieldOp, packWord, BitVec.getLsbD_extractLsb', BitVec.getLsbD_append, hi, decide_true,
    Bool.true_and]
  rw [if_neg (by omega)]
  rw [if_neg (by omega)]
  rw [if_neg (by omega)]
  rw [if_neg (by omega)]
  rw [if_neg (by omega)]
  rw [if_neg (by omega)]
  rw [if_neg (by omega)]
  rw [if_neg (by omega)]
  congr 1; omega

@[simp] theorem fieldF1_packWord : fieldF1 (packWord op f1 f0 a b cr cg cb) = BitVec.ofBool f1 := by
  apply BitVec.eq_of_getLsbD_eq
  intro i hi
  simp only [fieldF1, packWord, BitVec.getLsbD_extractLsb', BitVec.getLsbD_append, hi, decide_true,
    Bool.true_and]
  rw [if_neg (by omega)]
  rw [if_neg (by omega)]
  rw [if_neg (by omega)]
  rw [if_neg (by omega)]
  rw [if_neg (by omega)]
  rw [if_neg (by omega)]
  rw [if_neg (by omega)]
  rw [if_pos (by omega)]
  congr 1; omega

@[simp] theorem fieldF0_packWord : fieldF0 (packWord op f1 f0 a b cr cg cb) = BitVec.ofBool f0 := by
  apply BitVec.eq_of_getLsbD_eq
  intro i hi
  simp only [fieldF0, packWord, BitVec.getLsbD_extractLsb', BitVec.getLsbD_append, hi, decide_true,
    Bool.true_and]
  rw [if_neg (by omega)]
  rw [if_neg (by omega)]
  rw [if_neg (by omega)]
  rw [if_neg (by omega)]
  rw [if_neg (by omega)]
  rw [if_neg (by omega)]
  rw [if_pos (by omega)]
  congr 1; omega

@[simp] theorem fieldRsv_packWord : fieldRsv (packWord op f1 f0 a b cr cg cb) = 0 := by
  apply BitVec.eq_of_getLsbD_eq
  intro i hi
  simp only [fieldRsv, packWord, BitVec.getLsbD_extractLsb', BitVec.getLsbD_append, hi, decide_true,
    Bool.true_and]
  rw [if_neg (by omega)]
  rw [if_neg (by omega)]
  rw [if_neg (by omega)]
  rw [if_neg (by omega)]
  rw [if_neg (by omega)]
  rw [if_pos (by omega)]
  simp

@[simp] theorem fieldA_packWord : fieldA (packWord op f1 f0 a b cr cg cb) = a := by
  apply BitVec.eq_of_getLsbD_eq
  intro i hi
  simp only [fieldA, packWord, BitVec.getLsbD_extractLsb', BitVec.getLsbD_append, hi, decide_true,
    Bool.true_and]
  rw [if_neg (by omega)]
  rw [if_neg (by omega)]
  rw [if_neg (by omega)]
  rw [if_neg (by omega)]
  rw [if_pos (by omega)]
  congr 1; omega

@[simp] theorem fieldB_packWord : fieldB (packWord op f1 f0 a b cr cg cb) = b := by
  apply BitVec.eq_of_getLsbD_eq
  intro i hi
  simp only [fieldB, packWord, BitVec.getLsbD_extractLsb', BitVec.getLsbD_append, hi, decide_true,
    Bool.true_and]
  rw [if_neg (by omega)]
  rw [if_neg (by omega)]
  rw [if_neg (by omega)]
  rw [if_pos (by omega)]
  congr 1; omega

@[simp] theorem fieldCR_packWord : fieldCR (packWord op f1 f0 a b cr cg cb) = cr := by
  apply BitVec.eq_of_getLsbD_eq
  intro i hi
  simp only [fieldCR, packWord, BitVec.getLsbD_extractLsb', BitVec.getLsbD_append, hi, decide_true,
    Bool.true_and]
  rw [if_neg (by omega)]
  rw [if_neg (by omega)]
  rw [if_pos (by omega)]
  congr 1; omega

@[simp] theorem fieldCG_packWord : fieldCG (packWord op f1 f0 a b cr cg cb) = cg := by
  apply BitVec.eq_of_getLsbD_eq
  intro i hi
  simp only [fieldCG, packWord, BitVec.getLsbD_extractLsb', BitVec.getLsbD_append, hi, decide_true,
    Bool.true_and]
  rw [if_neg (by omega)]
  rw [if_pos (by omega)]
  congr 1; omega

@[simp] theorem fieldCB_packWord : fieldCB (packWord op f1 f0 a b cr cg cb) = cb := by
  apply BitVec.eq_of_getLsbD_eq
  intro i hi
  simp only [fieldCB, packWord, BitVec.getLsbD_extractLsb', BitVec.getLsbD_append, hi, decide_true,
    Bool.true_and]
  rw [if_pos (by omega)]
  congr 1; omega

end Fields

theorem ofBool_flagOf (b : BitVec 1) : BitVec.ofBool (flagOf b) = b := by revert b; decide

@[simp] theorem flagOf_ofBool (b : Bool) : flagOf (BitVec.ofBool b) = b := by cases b <;> rfl

theorem flagOf_eq_false {b : BitVec 1} : flagOf b = false ↔ b = 0 := by revert b; decide

/-- A word whose RSV field is zero is the pack of its other fields (R61, R69). -/
theorem packWord_fields (w : CmdWord) (h : fieldRsv w = 0) :
    packWord (fieldOp w) (flagOf (fieldF1 w)) (flagOf (fieldF0 w)) (fieldA w) (fieldB w) (fieldCR w) (fieldCG w)
      (fieldCB w) = w := by
  have hz : (0#10 : BitVec 10) = fieldRsv w := h.symm
  simp only [packWord, ofBool_flagOf, hz]
  apply BitVec.eq_of_getLsbD_eq
  intro i hi
  simp only [fieldOp, fieldF1, fieldF0, fieldRsv, fieldA, fieldB, fieldCR, fieldCG, fieldCB,
    BitVec.getLsbD_extractLsb', BitVec.getLsbD_append]
  split_ifs <;> (rw [decide_eq_true (by omega), Bool.true_and]; congr 1; omega)

/-- Two words are equal when their nine fields are (R60). -/
theorem word_eq_iff (w x : CmdWord) : w = x ↔ fieldOp w = fieldOp x ∧ fieldF1 w = fieldF1 x ∧
    fieldF0 w = fieldF0 x ∧ fieldRsv w = fieldRsv x ∧ fieldA w = fieldA x ∧ fieldB w = fieldB x ∧
    fieldCR w = fieldCR x ∧ fieldCG w = fieldCG x ∧ fieldCB w = fieldCB x := by
  refine ⟨by rintro rfl; simp, ?_⟩
  rintro ⟨h1, h2, h3, h4, h5, h6, h7, h8, h9⟩
  apply BitVec.eq_of_getLsbD_eq
  intro i hi
  have key : ∀ (st len : Nat), w.extractLsb' st len = x.extractLsb' st len → st ≤ i → i < st + len →
      w.getLsbD i = x.getLsbD i := by
    intro st len h hlo hhi
    have := congrArg (fun v => v.getLsbD (i - st)) h
    simp only [BitVec.getLsbD_extractLsb'] at this
    rw [decide_eq_true (by omega), Bool.true_and, Bool.true_and, show st + (i - st) = i by omega] at this
    exact this
  by_cases c9 : i < 16
  · exact key 0 16 h9 (by omega) (by omega)
  by_cases c8 : i < 32
  · exact key 16 16 h8 (by omega) (by omega)
  by_cases c7 : i < 48
  · exact key 32 16 h7 (by omega) (by omega)
  by_cases c6 : i < 64
  · exact key 48 16 h6 (by omega) (by omega)
  by_cases c5 : i < 80
  · exact key 64 16 h5 (by omega) (by omega)
  by_cases c4 : i < 90
  · exact key 80 10 h4 (by omega) (by omega)
  by_cases c3 : i < 91
  · exact key 90 1 h3 (by omega) (by omega)
  by_cases c2 : i < 92
  · exact key 91 1 h2 (by omega) (by omega)
  · exact key 92 4 h1 (by omega) (by omega)

theorem toNat_append_add {v w : Nat} (x : BitVec v) (y : BitVec w) :
    (x ++ y).toNat = x.toNat * 2 ^ w + y.toNat := by
  rw [BitVec.toNat_append, ← Nat.shiftLeft_add_eq_or_of_lt y.isLt, Nat.shiftLeft_eq]

/-- A packed word as the sum of its shifted fields (R69). -/
theorem toNat_packWord (op : BitVec 4) (f1 f0 : Bool) (a b cr cg cb : Half) :
    (packWord op f1 f0 a b cr cg cb).toNat = op.toNat * 2 ^ 92 + f1.toNat * 2 ^ 91 + f0.toNat * 2 ^ 90 +
      a.toNat * 2 ^ 64 + b.toNat * 2 ^ 48 + cr.toNat * 2 ^ 32 + cg.toNat * 2 ^ 16 + cb.toNat := by
  simp only [packWord, toNat_append_add, BitVec.toNat_ofBool, BitVec.toNat_ofNat]
  omega

/-- A field read signed and taken modulo 2^16 is the field read unsigned (R62, R69). -/
theorem toInt_emod (x : Half) : (x.toInt % 2 ^ 16).toNat = x.toNat := by
  have h1 := BitVec.toInt_eq_toNat_cond x
  have h2 := x.isLt
  split at h1 <;> omega

theorem channelsZero_iff (w : CmdWord) :
    channelsZero w = true ↔ fieldCR w = 0 ∧ fieldCG w = 0 ∧ fieldCB w = 0 := by
  simp [channelsZero, and_assoc]

/-- When a word decodes, and to what: OP, and the fields that R64 asks to be zero. -/
theorem decode_eq_ok (w : CmdWord) (i : Instr) : decode w = .ok i ↔ fieldRsv w = 0 ∧
    ((fieldOp w = 1 ∧ fieldF0 w = 0 ∧ fieldB w = 0 ∧ (fieldCR w = 0 ∧ fieldCG w = 0 ∧ fieldCB w = 0) ∧
        i = .construct (flagOf (fieldF1 w)) (fieldA w)) ∨
      (fieldOp w = 2 ∧ fieldF1 w = 0 ∧ fieldF0 w = 0 ∧ fieldB w = 0 ∧
        i = .set (fieldA w) (fieldCR w) (fieldCG w) (fieldCB w)) ∨
      (fieldOp w = 3 ∧ (fieldF1 w = 0 → fieldA w = 0) ∧ (fieldF0 w = 0 → fieldB w = 0) ∧
        i = .fill (flagOf (fieldF1 w)) (flagOf (fieldF0 w)) (fieldA w) (fieldB w) (fieldCR w) (fieldCG w)
          (fieldCB w)) ∨
      (fieldOp w = 4 ∧ fieldF1 w = 0 ∧ fieldF0 w = 0 ∧ fieldA w = 0 ∧ fieldB w = 0 ∧
        (fieldCR w = 0 ∧ fieldCG w = 0 ∧ fieldCB w = 0) ∧ i = .draw) ∨
      (fieldOp w = 5 ∧ fieldF1 w = 0 ∧ fieldF0 w = 0 ∧ fieldA w = 0 ∧ fieldB w = 0 ∧
        (fieldCR w = 0 ∧ fieldCG w = 0 ∧ fieldCB w = 0) ∧ i = .configure)) := by
  have flag : ∀ b : BitVec 1, flagOf b = true ↔ b ≠ 0 := by decide
  have pick : ∀ {c : Prop} [Decidable c] {j : Instr},
      ((if c then Except.ok j else Except.error Illegal.nonzeroField : Except Illegal Instr) = .ok i) ↔
        c ∧ i = j := by
    intro c _ j
    by_cases hc : c
    · rw [if_pos hc]
      exact ⟨fun h => ⟨hc, by cases h; rfl⟩, fun h => by rw [h.2]⟩
    · rw [if_neg hc]
      exact ⟨nofun, fun h => absurd h.1 hc⟩
  have e1 : decodeConstruct w = .ok i ↔ fieldF0 w = 0 ∧ fieldB w = 0 ∧
      (fieldCR w = 0 ∧ fieldCG w = 0 ∧ fieldCB w = 0) ∧ i = .construct (flagOf (fieldF1 w)) (fieldA w) := by
    rw [decodeConstruct, pick]; simp [channelsZero_iff, and_assoc]
  have e2 : decodeSet w = .ok i ↔ fieldF1 w = 0 ∧ fieldF0 w = 0 ∧ fieldB w = 0 ∧
      i = .set (fieldA w) (fieldCR w) (fieldCG w) (fieldCB w) := by
    rw [decodeSet, pick]; simp [and_assoc]
  have e3 : decodeFill w = .ok i ↔ (fieldF1 w = 0 → fieldA w = 0) ∧ (fieldF0 w = 0 → fieldB w = 0) ∧
      i = .fill (flagOf (fieldF1 w)) (flagOf (fieldF0 w)) (fieldA w) (fieldB w) (fieldCR w) (fieldCG w)
        (fieldCB w) := by
    simp only [decodeFill]
    rw [pick]
    simp only [Instr.wf, Bool.and_eq_true, Bool.or_eq_true, flag, beq_iff_eq, and_assoc]
    constructor
    · rintro ⟨h1, h2, h3⟩
      exact ⟨fun h => h1.resolve_left (by simp [h]), fun h => h2.resolve_left (by simp [h]), h3⟩
    · rintro ⟨h1, h2, h3⟩
      exact ⟨(em (fieldF1 w = 0)).symm.imp id h1, (em (fieldF0 w = 0)).symm.imp id h2, h3⟩
  have e4 : ∀ j, decodeBare j w = .ok i ↔ fieldF1 w = 0 ∧ fieldF0 w = 0 ∧ fieldA w = 0 ∧ fieldB w = 0 ∧
      (fieldCR w = 0 ∧ fieldCG w = 0 ∧ fieldCB w = 0) ∧ i = j := by
    intro j
    rw [decodeBare, pick]; simp [channelsZero_iff, and_assoc]
  rw [decode]
  by_cases hr : fieldRsv w = 0
  · generalize fieldOp w = op
    by_cases h1 : op = 1
    · subst h1; simp [hr, e1]
    by_cases h2 : op = 2
    · subst h2; simp [hr, e2]
    by_cases h3 : op = 3
    · subst h3; simp [hr, e3]
    by_cases h4 : op = 4
    · subst h4; simp [hr, e4]
    by_cases h5 : op = 5
    · subst h5; simp [hr, e4]
    rw [if_neg (by tauto)]
    exact ⟨nofun, fun h => by tauto⟩
  · refine ⟨fun h => ?_, fun h => absurd h.1 hr⟩
    split at h <;> cases h

end Sys2Proof
end

