-- ==== Sys2Proof/Laws/State.lean ====
section
/-! SUPPORT. One lemma per field per update of the state, each true by unfolding, so that no proof unfolds a
record update. -/

namespace Sys2Proof.Machine

variable (s : State)

/-! ### `respond` -/

@[simp] theorem respond_params (status : Cause) (diag : BitVec 3) :
    (respond status diag s).params = s.params := rfl
@[simp] theorem respond_constructed (status : Cause) (diag : BitVec 3) :
    (respond status diag s).constructed = s.constructed := rfl
@[simp] theorem respond_frameSize (status : Cause) (diag : BitVec 3) :
    (respond status diag s).frameSize = s.frameSize := rfl
@[simp] theorem respond_buf (status : Cause) (diag : BitVec 3) : (respond status diag s).buf = s.buf := rfl
@[simp] theorem respond_configured (status : Cause) (diag : BitVec 3) :
    (respond status diag s).configured = s.configured := rfl
@[simp] theorem respond_drawn (status : Cause) (diag : BitVec 3) :
    (respond status diag s).drawn = s.drawn := rfl
@[simp] theorem respond_fault (status : Cause) (diag : BitVec 3) :
    (respond status diag s).fault = s.fault := rfl
@[simp] theorem respond_cause (status : Cause) (diag : BitVec 3) :
    (respond status diag s).cause = s.cause := rfl
@[simp] theorem respond_seqAddr (status : Cause) (diag : BitVec 3) :
    (respond status diag s).seqAddr = s.freeSeqAddr := rfl
@[simp] theorem respond_inFlight (status : Cause) (diag : BitVec 3) :
    (respond status diag s).inFlight = none := rfl
@[simp] theorem respond_accepted (status : Cause) (diag : BitVec 3) :
    (respond status diag s).accepted = 0 := rfl
@[simp] theorem respond_response (status : Cause) (diag : BitVec 3) :
    (respond status diag s).response = some { status := status, diag := diag } := rfl
@[simp] theorem respond_trace (status : Cause) (diag : BitVec 3) :
    (respond status diag s).trace = s.trace := rfl
@[simp] theorem respond_callerErr (status : Cause) (diag : BitVec 3) :
    (respond status diag s).callerErr = s.callerErr := rfl
@[simp] theorem respond_freeCount (status : Cause) (diag : BitVec 3) :
    (respond status diag s).freeCount = s.freeCount + 1 := rfl
@[simp] theorem respond_rst (status : Cause) (diag : BitVec 3) : (respond status diag s).rst = s.rst := rfl
@[simp] theorem respond_streams (status : Cause) (diag : BitVec 3) :
    (respond status diag s).streams = s.streams := rfl
@[simp] theorem respond_serial (status : Cause) (diag : BitVec 3) :
    (respond status diag s).serial = s.serial := rfl

/-! ### `raiseFault` -/

@[simp] theorem raiseFault_params (cause : Cause) : (raiseFault cause s).params = s.params := rfl
@[simp] theorem raiseFault_constructed (cause : Cause) :
    (raiseFault cause s).constructed = s.constructed := rfl
@[simp] theorem raiseFault_frameSize (cause : Cause) : (raiseFault cause s).frameSize = s.frameSize := rfl
@[simp] theorem raiseFault_buf (cause : Cause) : (raiseFault cause s).buf = s.buf := rfl
@[simp] theorem raiseFault_configured (cause : Cause) : (raiseFault cause s).configured = s.configured := rfl
@[simp] theorem raiseFault_drawn (cause : Cause) : (raiseFault cause s).drawn = s.drawn := rfl
@[simp] theorem raiseFault_fault (cause : Cause) : (raiseFault cause s).fault = true := rfl
@[simp] theorem raiseFault_cause (cause : Cause) : (raiseFault cause s).cause = cause := rfl
@[simp] theorem raiseFault_seqAddr (cause : Cause) : (raiseFault cause s).seqAddr = s.freeSeqAddr := rfl
@[simp] theorem raiseFault_inFlight (cause : Cause) : (raiseFault cause s).inFlight = none := rfl
@[simp] theorem raiseFault_accepted (cause : Cause) : (raiseFault cause s).accepted = 0 := rfl
@[simp] theorem raiseFault_response (cause : Cause) :
    (raiseFault cause s).response = some { status := cause, diag := 0 } := rfl
@[simp] theorem raiseFault_trace (cause : Cause) : (raiseFault cause s).trace = s.trace := rfl
@[simp] theorem raiseFault_callerErr (cause : Cause) : (raiseFault cause s).callerErr = s.callerErr := rfl
@[simp] theorem raiseFault_freeCount (cause : Cause) : (raiseFault cause s).freeCount = s.freeCount + 1 := rfl
@[simp] theorem raiseFault_rst (cause : Cause) : (raiseFault cause s).rst = s.rst := rfl
@[simp] theorem raiseFault_streams (cause : Cause) : (raiseFault cause s).streams = s.streams := rfl
@[simp] theorem raiseFault_serial (cause : Cause) : (raiseFault cause s).serial = s.serial := rfl

/-! ### `emitConfigure` -/

@[simp] theorem emitConfigure_params : (emitConfigure s).params = s.params := rfl
@[simp] theorem emitConfigure_constructed : (emitConfigure s).constructed = s.constructed := rfl
@[simp] theorem emitConfigure_frameSize : (emitConfigure s).frameSize = s.frameSize := rfl
@[simp] theorem emitConfigure_buf : (emitConfigure s).buf = s.buf := rfl
@[simp] theorem emitConfigure_configured : (emitConfigure s).configured = true := rfl
@[simp] theorem emitConfigure_drawn : (emitConfigure s).drawn = s.drawn := rfl
@[simp] theorem emitConfigure_fault : (emitConfigure s).fault = s.fault := rfl
@[simp] theorem emitConfigure_cause : (emitConfigure s).cause = s.cause := rfl
@[simp] theorem emitConfigure_seqAddr : (emitConfigure s).seqAddr = s.seqAddr := rfl
@[simp] theorem emitConfigure_inFlight : (emitConfigure s).inFlight = s.inFlight := rfl
@[simp] theorem emitConfigure_accepted : (emitConfigure s).accepted = s.accepted := rfl
@[simp] theorem emitConfigure_response : (emitConfigure s).response = s.response := rfl
@[simp] theorem emitConfigure_trace :
    (emitConfigure s).trace = s.trace ++ [.configure .msbFirst s.params.spiClockKhz] := rfl
@[simp] theorem emitConfigure_callerErr : (emitConfigure s).callerErr = s.callerErr := rfl
@[simp] theorem emitConfigure_freeCount : (emitConfigure s).freeCount = s.freeCount := rfl
@[simp] theorem emitConfigure_rst : (emitConfigure s).rst = s.rst := rfl
@[simp] theorem emitConfigure_streams : (emitConfigure s).streams = s.streams := rfl
@[simp] theorem emitConfigure_serial : (emitConfigure s).serial = s.serial := rfl

/-! ### `emitWrite` -/

@[simp] theorem emitWrite_params (bytes : List Byte) : (emitWrite bytes s).params = s.params := rfl
@[simp] theorem emitWrite_constructed (bytes : List Byte) :
    (emitWrite bytes s).constructed = s.constructed := rfl
@[simp] theorem emitWrite_frameSize (bytes : List Byte) : (emitWrite bytes s).frameSize = s.frameSize := rfl
@[simp] theorem emitWrite_buf (bytes : List Byte) : (emitWrite bytes s).buf = s.buf := rfl
@[simp] theorem emitWrite_configured (bytes : List Byte) :
    (emitWrite bytes s).configured = s.configured := rfl
@[simp] theorem emitWrite_drawn (bytes : List Byte) : (emitWrite bytes s).drawn = true := rfl
@[simp] theorem emitWrite_fault (bytes : List Byte) : (emitWrite bytes s).fault = s.fault := rfl
@[simp] theorem emitWrite_cause (bytes : List Byte) : (emitWrite bytes s).cause = s.cause := rfl
@[simp] theorem emitWrite_seqAddr (bytes : List Byte) : (emitWrite bytes s).seqAddr = s.seqAddr := rfl
@[simp] theorem emitWrite_inFlight (bytes : List Byte) : (emitWrite bytes s).inFlight = s.inFlight := rfl
@[simp] theorem emitWrite_accepted (bytes : List Byte) : (emitWrite bytes s).accepted = s.accepted := rfl
@[simp] theorem emitWrite_response (bytes : List Byte) : (emitWrite bytes s).response = s.response := rfl
@[simp] theorem emitWrite_trace (bytes : List Byte) :
    (emitWrite bytes s).trace = s.trace ++ [.write bytes] := rfl
@[simp] theorem emitWrite_callerErr (bytes : List Byte) : (emitWrite bytes s).callerErr = s.callerErr := rfl
@[simp] theorem emitWrite_freeCount (bytes : List Byte) : (emitWrite bytes s).freeCount = s.freeCount := rfl
@[simp] theorem emitWrite_rst (bytes : List Byte) : (emitWrite bytes s).rst = s.rst := rfl
@[simp] theorem emitWrite_streams (bytes : List Byte) : (emitWrite bytes s).streams = s.streams := rfl
@[simp] theorem emitWrite_serial (bytes : List Byte) : (emitWrite bytes s).serial = s.serial := rfl

/-! ### `noteCallerError` -/

@[simp] theorem noteCallerError_params (isError : Bool) : (noteCallerError isError s).params = s.params := rfl
@[simp] theorem noteCallerError_constructed (isError : Bool) :
    (noteCallerError isError s).constructed = s.constructed := rfl
@[simp] theorem noteCallerError_frameSize (isError : Bool) :
    (noteCallerError isError s).frameSize = s.frameSize := rfl
@[simp] theorem noteCallerError_buf (isError : Bool) : (noteCallerError isError s).buf = s.buf := rfl
@[simp] theorem noteCallerError_configured (isError : Bool) :
    (noteCallerError isError s).configured = s.configured := rfl
@[simp] theorem noteCallerError_drawn (isError : Bool) : (noteCallerError isError s).drawn = s.drawn := rfl
@[simp] theorem noteCallerError_fault (isError : Bool) : (noteCallerError isError s).fault = s.fault := rfl
@[simp] theorem noteCallerError_cause (isError : Bool) : (noteCallerError isError s).cause = s.cause := rfl
@[simp] theorem noteCallerError_seqAddr (isError : Bool) :
    (noteCallerError isError s).seqAddr = s.seqAddr := rfl
@[simp] theorem noteCallerError_inFlight (isError : Bool) :
    (noteCallerError isError s).inFlight = s.inFlight := rfl
@[simp] theorem noteCallerError_accepted (isError : Bool) :
    (noteCallerError isError s).accepted = s.accepted := rfl
@[simp] theorem noteCallerError_response (isError : Bool) :
    (noteCallerError isError s).response = s.response := rfl
@[simp] theorem noteCallerError_trace (isError : Bool) : (noteCallerError isError s).trace = s.trace := rfl
@[simp] theorem noteCallerError_callerErr (isError : Bool) :
    (noteCallerError isError s).callerErr = (s.callerErr || isError) := rfl
@[simp] theorem noteCallerError_freeCount (isError : Bool) :
    (noteCallerError isError s).freeCount = s.freeCount := rfl
@[simp] theorem noteCallerError_rst (isError : Bool) : (noteCallerError isError s).rst = s.rst := rfl
@[simp] theorem noteCallerError_streams (isError : Bool) :
    (noteCallerError isError s).streams = s.streams := rfl
@[simp] theorem noteCallerError_serial (isError : Bool) : (noteCallerError isError s).serial = s.serial := rfl

/-! ### `holdCommand` -/

@[simp] theorem holdCommand_params (configures : Nat) : (holdCommand configures s).params = s.params := rfl
@[simp] theorem holdCommand_constructed (configures : Nat) :
    (holdCommand configures s).constructed = s.constructed := rfl
@[simp] theorem holdCommand_frameSize (configures : Nat) :
    (holdCommand configures s).frameSize = s.frameSize := rfl
@[simp] theorem holdCommand_buf (configures : Nat) : (holdCommand configures s).buf = s.buf := rfl
@[simp] theorem holdCommand_configured (configures : Nat) :
    (holdCommand configures s).configured = s.configured := rfl
@[simp] theorem holdCommand_drawn (configures : Nat) : (holdCommand configures s).drawn = s.drawn := rfl
@[simp] theorem holdCommand_fault (configures : Nat) : (holdCommand configures s).fault = s.fault := rfl
@[simp] theorem holdCommand_cause (configures : Nat) : (holdCommand configures s).cause = s.cause := rfl
@[simp] theorem holdCommand_seqAddr (configures : Nat) :
    (holdCommand configures s).seqAddr = (if configures ≤ s.accepted + s.serial.granted then
      BitVec.ofNat 21 (s.accepted + s.serial.granted - configures) else s.freeSeqAddr) := rfl
@[simp] theorem holdCommand_inFlight (configures : Nat) :
    (holdCommand configures s).inFlight = s.inFlight := rfl
@[simp] theorem holdCommand_accepted (configures : Nat) :
    (holdCommand configures s).accepted = s.accepted + s.serial.granted := rfl
@[simp] theorem holdCommand_response (configures : Nat) :
    (holdCommand configures s).response = s.response := rfl
@[simp] theorem holdCommand_trace (configures : Nat) : (holdCommand configures s).trace = s.trace := rfl
@[simp] theorem holdCommand_callerErr (configures : Nat) :
    (holdCommand configures s).callerErr = s.callerErr := rfl
@[simp] theorem holdCommand_freeCount (configures : Nat) :
    (holdCommand configures s).freeCount =
      (if configures ≤ s.accepted + s.serial.granted then s.freeCount else s.freeCount + 1) := rfl
@[simp] theorem holdCommand_rst (configures : Nat) : (holdCommand configures s).rst = s.rst := rfl
@[simp] theorem holdCommand_streams (configures : Nat) : (holdCommand configures s).streams = s.streams := rfl
@[simp] theorem holdCommand_serial (configures : Nat) :
    (holdCommand configures s).serial = s.serial.advance := rfl

/-! ### `accept` -/

@[simp] theorem accept_params (w : CmdWord) : (s.accept w).params = s.params := rfl
@[simp] theorem accept_constructed (w : CmdWord) : (s.accept w).constructed = s.constructed := rfl
@[simp] theorem accept_frameSize (w : CmdWord) : (s.accept w).frameSize = s.frameSize := rfl
@[simp] theorem accept_buf (w : CmdWord) : (s.accept w).buf = s.buf := rfl
@[simp] theorem accept_configured (w : CmdWord) : (s.accept w).configured = s.configured := rfl
@[simp] theorem accept_drawn (w : CmdWord) : (s.accept w).drawn = s.drawn := rfl
@[simp] theorem accept_fault (w : CmdWord) : (s.accept w).fault = s.fault := rfl
@[simp] theorem accept_cause (w : CmdWord) : (s.accept w).cause = s.cause := rfl
@[simp] theorem accept_seqAddr (w : CmdWord) : (s.accept w).seqAddr = s.seqAddr := rfl
@[simp] theorem accept_inFlight (w : CmdWord) : (s.accept w).inFlight = some w := rfl
@[simp] theorem accept_accepted (w : CmdWord) : (s.accept w).accepted = 0 := rfl
@[simp] theorem accept_response (w : CmdWord) : (s.accept w).response = s.response := rfl
@[simp] theorem accept_trace (w : CmdWord) : (s.accept w).trace = s.trace := rfl
@[simp] theorem accept_callerErr (w : CmdWord) : (s.accept w).callerErr = s.callerErr := rfl
@[simp] theorem accept_freeCount (w : CmdWord) : (s.accept w).freeCount = s.freeCount := rfl
@[simp] theorem accept_rst (w : CmdWord) : (s.accept w).rst = s.rst := rfl
@[simp] theorem accept_streams (w : CmdWord) : (s.accept w).streams = s.streams.map List.tail := rfl
@[simp] theorem accept_serial (w : CmdWord) : (s.accept w).serial = s.serial := rfl

/-! ### `present` -/

@[simp] theorem present_params (w : CmdWord) : (s.present w).params = s.params := rfl
@[simp] theorem present_constructed (w : CmdWord) : (s.present w).constructed = s.constructed := rfl
@[simp] theorem present_frameSize (w : CmdWord) : (s.present w).frameSize = s.frameSize := rfl
@[simp] theorem present_buf (w : CmdWord) : (s.present w).buf = s.buf := rfl
@[simp] theorem present_configured (w : CmdWord) : (s.present w).configured = s.configured := rfl
@[simp] theorem present_drawn (w : CmdWord) : (s.present w).drawn = s.drawn := rfl
@[simp] theorem present_fault (w : CmdWord) : (s.present w).fault = s.fault := rfl
@[simp] theorem present_cause (w : CmdWord) : (s.present w).cause = s.cause := rfl
@[simp] theorem present_seqAddr (w : CmdWord) : (s.present w).seqAddr = s.seqAddr := rfl
@[simp] theorem present_inFlight (w : CmdWord) : (s.present w).inFlight = none := rfl
@[simp] theorem present_accepted (w : CmdWord) : (s.present w).accepted = 0 := rfl
@[simp] theorem present_response (w : CmdWord) : (s.present w).response = s.response := rfl
@[simp] theorem present_trace (w : CmdWord) : (s.present w).trace = s.trace := rfl
@[simp] theorem present_callerErr (w : CmdWord) : (s.present w).callerErr = s.callerErr := rfl
@[simp] theorem present_freeCount (w : CmdWord) : (s.present w).freeCount = s.freeCount := rfl
@[simp] theorem present_rst (w : CmdWord) : (s.present w).rst = false := rfl
@[simp] theorem present_streams (w : CmdWord) : (s.present w).streams = [w :: s.streams.headD []] := rfl
@[simp] theorem present_serial (w : CmdWord) : (s.present w).serial = s.serial := rfl

/-! ### `powerOn` -/

@[simp] theorem powerOn_params : (s.powerOn).params = s.params := rfl
@[simp] theorem powerOn_constructed : (s.powerOn).constructed = false := rfl
@[simp] theorem powerOn_frameSize : (s.powerOn).frameSize = 0 := rfl
@[simp] theorem powerOn_buf : (s.powerOn).buf = [] := rfl
@[simp] theorem powerOn_configured : (s.powerOn).configured = false := rfl
@[simp] theorem powerOn_drawn : (s.powerOn).drawn = false := rfl
@[simp] theorem powerOn_fault : (s.powerOn).fault = false := rfl
@[simp] theorem powerOn_cause : (s.powerOn).cause = .none := rfl
@[simp] theorem powerOn_seqAddr : (s.powerOn).seqAddr = 0 := rfl
@[simp] theorem powerOn_inFlight : (s.powerOn).inFlight = none := rfl
@[simp] theorem powerOn_accepted : (s.powerOn).accepted = 0 := rfl
@[simp] theorem powerOn_response : (s.powerOn).response = none := rfl
@[simp] theorem powerOn_trace : (s.powerOn).trace = [] := rfl
@[simp] theorem powerOn_callerErr : (s.powerOn).callerErr = false := rfl
@[simp] theorem powerOn_freeCount : (s.powerOn).freeCount = s.freeCount := rfl
@[simp] theorem powerOn_rst : (s.powerOn).rst = false := rfl
@[simp] theorem powerOn_streams : (s.powerOn).streams = s.streams := rfl
@[simp] theorem powerOn_serial : (s.powerOn).serial = s.serial := rfl

/-! ### `construct` -/

@[simp] theorem construct_params (n : Half) : (construct n s).params = s.params := rfl
@[simp] theorem construct_constructed (n : Half) : (construct n s).constructed = true := rfl
@[simp] theorem construct_frameSize (n : Half) : (construct n s).frameSize = n := rfl
@[simp] theorem construct_buf (n : Half) : (construct n s).buf = blankBuffer s.params n.toNat := rfl
@[simp] theorem construct_configured (n : Half) : (construct n s).configured = s.configured := rfl
@[simp] theorem construct_drawn (n : Half) : (construct n s).drawn = s.drawn := rfl
@[simp] theorem construct_fault (n : Half) : (construct n s).fault = s.fault := rfl
@[simp] theorem construct_cause (n : Half) : (construct n s).cause = s.cause := rfl
@[simp] theorem construct_seqAddr (n : Half) : (construct n s).seqAddr = s.seqAddr := rfl
@[simp] theorem construct_inFlight (n : Half) : (construct n s).inFlight = s.inFlight := rfl
@[simp] theorem construct_accepted (n : Half) : (construct n s).accepted = s.accepted := rfl
@[simp] theorem construct_response (n : Half) : (construct n s).response = s.response := rfl
@[simp] theorem construct_trace (n : Half) : (construct n s).trace = s.trace := rfl
@[simp] theorem construct_callerErr (n : Half) : (construct n s).callerErr = s.callerErr := rfl
@[simp] theorem construct_freeCount (n : Half) : (construct n s).freeCount = s.freeCount := rfl
@[simp] theorem construct_rst (n : Half) : (construct n s).rst = s.rst := rfl
@[simp] theorem construct_streams (n : Half) : (construct n s).streams = s.streams := rfl
@[simp] theorem construct_serial (n : Half) : (construct n s).serial = s.serial := rfl

/-! ### `writePixels` -/

@[simp] theorem writePixels_params (lo count : Nat) (red green blue : Half) :
    (writePixels lo count red green blue s).params = s.params := rfl
@[simp] theorem writePixels_constructed (lo count : Nat) (red green blue : Half) :
    (writePixels lo count red green blue s).constructed = s.constructed := rfl
@[simp] theorem writePixels_frameSize (lo count : Nat) (red green blue : Half) :
    (writePixels lo count red green blue s).frameSize = s.frameSize := rfl
@[simp] theorem writePixels_buf (lo count : Nat) (red green blue : Half) :
    (writePixels lo count red green blue s).buf = s.buf.fillSlots lo count (block s.params red green blue) := rfl
@[simp] theorem writePixels_configured (lo count : Nat) (red green blue : Half) :
    (writePixels lo count red green blue s).configured = s.configured := rfl
@[simp] theorem writePixels_drawn (lo count : Nat) (red green blue : Half) :
    (writePixels lo count red green blue s).drawn = s.drawn := rfl
@[simp] theorem writePixels_fault (lo count : Nat) (red green blue : Half) :
    (writePixels lo count red green blue s).fault = s.fault := rfl
@[simp] theorem writePixels_cause (lo count : Nat) (red green blue : Half) :
    (writePixels lo count red green blue s).cause = s.cause := rfl
@[simp] theorem writePixels_seqAddr (lo count : Nat) (red green blue : Half) :
    (writePixels lo count red green blue s).seqAddr = s.freeSeqAddr := rfl
@[simp] theorem writePixels_inFlight (lo count : Nat) (red green blue : Half) :
    (writePixels lo count red green blue s).inFlight = none := rfl
@[simp] theorem writePixels_accepted (lo count : Nat) (red green blue : Half) :
    (writePixels lo count red green blue s).accepted = 0 := rfl
@[simp] theorem writePixels_response (lo count : Nat) (red green blue : Half) :
    (writePixels lo count red green blue s).response = some { status := .none, diag := rspDiag red green blue } := rfl
@[simp] theorem writePixels_trace (lo count : Nat) (red green blue : Half) :
    (writePixels lo count red green blue s).trace = s.trace ++ diagEvents red green blue := rfl
@[simp] theorem writePixels_callerErr (lo count : Nat) (red green blue : Half) :
    (writePixels lo count red green blue s).callerErr = s.callerErr := rfl
@[simp] theorem writePixels_freeCount (lo count : Nat) (red green blue : Half) :
    (writePixels lo count red green blue s).freeCount = s.freeCount + 1 := rfl
@[simp] theorem writePixels_rst (lo count : Nat) (red green blue : Half) :
    (writePixels lo count red green blue s).rst = s.rst := rfl
@[simp] theorem writePixels_streams (lo count : Nat) (red green blue : Half) :
    (writePixels lo count red green blue s).streams = s.streams := rfl
@[simp] theorem writePixels_serial (lo count : Nat) (red green blue : Half) :
    (writePixels lo count red green blue s).serial = s.serial := rfl

/-! ### `drawFrame` -/

@[simp] theorem drawFrame_params : (drawFrame s).params = s.params := rfl
@[simp] theorem drawFrame_constructed : (drawFrame s).constructed = s.constructed := rfl
@[simp] theorem drawFrame_frameSize : (drawFrame s).frameSize = s.frameSize := rfl
@[simp] theorem drawFrame_buf : (drawFrame s).buf = s.buf := rfl
@[simp] theorem drawFrame_configured : (drawFrame s).configured = s.configured := rfl
@[simp] theorem drawFrame_drawn : (drawFrame s).drawn = true := rfl
@[simp] theorem drawFrame_fault : (drawFrame s).fault = s.fault := rfl
@[simp] theorem drawFrame_cause : (drawFrame s).cause = s.cause := rfl
@[simp] theorem drawFrame_seqAddr : (drawFrame s).seqAddr = s.freeSeqAddr := rfl
@[simp] theorem drawFrame_inFlight : (drawFrame s).inFlight = none := rfl
@[simp] theorem drawFrame_accepted : (drawFrame s).accepted = 0 := rfl
@[simp] theorem drawFrame_response : (drawFrame s).response = some { status := .none, diag := 0 } := rfl
@[simp] theorem drawFrame_trace : (drawFrame s).trace = s.trace ++ [.write s.frame] := rfl
@[simp] theorem drawFrame_callerErr : (drawFrame s).callerErr = (s.callerErr || s.drawIsCallerError) := rfl
@[simp] theorem drawFrame_freeCount : (drawFrame s).freeCount = s.freeCount + 1 := rfl
@[simp] theorem drawFrame_rst : (drawFrame s).rst = s.rst := rfl
@[simp] theorem drawFrame_streams : (drawFrame s).streams = s.streams := rfl
@[simp] theorem drawFrame_serial : (drawFrame s).serial = s.serial := rfl

/-! ### `sendConfigure` -/

@[simp] theorem sendConfigure_params : (sendConfigure s).params = s.params := rfl
@[simp] theorem sendConfigure_constructed : (sendConfigure s).constructed = s.constructed := rfl
@[simp] theorem sendConfigure_frameSize : (sendConfigure s).frameSize = s.frameSize := rfl
@[simp] theorem sendConfigure_buf : (sendConfigure s).buf = s.buf := rfl
@[simp] theorem sendConfigure_configured : (sendConfigure s).configured = true := rfl
@[simp] theorem sendConfigure_drawn : (sendConfigure s).drawn = s.drawn := rfl
@[simp] theorem sendConfigure_fault : (sendConfigure s).fault = s.fault := rfl
@[simp] theorem sendConfigure_cause : (sendConfigure s).cause = s.cause := rfl
@[simp] theorem sendConfigure_seqAddr : (sendConfigure s).seqAddr = s.freeSeqAddr := rfl
@[simp] theorem sendConfigure_inFlight : (sendConfigure s).inFlight = none := rfl
@[simp] theorem sendConfigure_accepted : (sendConfigure s).accepted = 0 := rfl
@[simp] theorem sendConfigure_response :
    (sendConfigure s).response = some { status := .none, diag := 0 } := rfl
@[simp] theorem sendConfigure_trace :
    (sendConfigure s).trace = s.trace ++ [.configure .msbFirst s.params.spiClockKhz] := rfl
@[simp] theorem sendConfigure_callerErr :
    (sendConfigure s).callerErr = (s.callerErr || s.configureIsCallerError) := rfl
@[simp] theorem sendConfigure_freeCount : (sendConfigure s).freeCount = s.freeCount + 1 := rfl
@[simp] theorem sendConfigure_rst : (sendConfigure s).rst = s.rst := rfl
@[simp] theorem sendConfigure_streams : (sendConfigure s).streams = s.streams := rfl
@[simp] theorem sendConfigure_serial : (sendConfigure s).serial = s.serial := rfl

/-! ### `constructAndDraw` -/

@[simp] theorem constructAndDraw_params (n : Half) : (constructAndDraw n s).params = s.params := rfl
@[simp] theorem constructAndDraw_constructed (n : Half) : (constructAndDraw n s).constructed = true := rfl
@[simp] theorem constructAndDraw_frameSize (n : Half) : (constructAndDraw n s).frameSize = n := rfl
@[simp] theorem constructAndDraw_buf (n : Half) :
    (constructAndDraw n s).buf = blankBuffer s.params n.toNat := rfl
@[simp] theorem constructAndDraw_configured (n : Half) : (constructAndDraw n s).configured = true := rfl
@[simp] theorem constructAndDraw_drawn (n : Half) : (constructAndDraw n s).drawn = true := rfl
@[simp] theorem constructAndDraw_fault (n : Half) : (constructAndDraw n s).fault = s.fault := rfl
@[simp] theorem constructAndDraw_cause (n : Half) : (constructAndDraw n s).cause = s.cause := rfl
@[simp] theorem constructAndDraw_seqAddr (n : Half) : (constructAndDraw n s).seqAddr = s.freeSeqAddr := rfl
@[simp] theorem constructAndDraw_inFlight (n : Half) : (constructAndDraw n s).inFlight = none := rfl
@[simp] theorem constructAndDraw_accepted (n : Half) : (constructAndDraw n s).accepted = 0 := rfl
@[simp] theorem constructAndDraw_response (n : Half) :
    (constructAndDraw n s).response = some { status := .none, diag := 0 } := rfl
@[simp] theorem constructAndDraw_trace (n : Half) :
    (constructAndDraw n s).trace = s.trace ++ [.configure .msbFirst s.params.spiClockKhz] ++
      [.write ((blankBuffer s.params n.toNat).bytesBelow (bufferLength n.toNat))] := rfl
@[simp] theorem constructAndDraw_callerErr (n : Half) : (constructAndDraw n s).callerErr = s.callerErr := rfl
@[simp] theorem constructAndDraw_freeCount (n : Half) :
    (constructAndDraw n s).freeCount = s.freeCount + 1 := rfl
@[simp] theorem constructAndDraw_rst (n : Half) : (constructAndDraw n s).rst = s.rst := rfl
@[simp] theorem constructAndDraw_streams (n : Half) : (constructAndDraw n s).streams = s.streams := rfl
@[simp] theorem constructAndDraw_serial (n : Half) : (constructAndDraw n s).serial = s.serial := rfl

/-! ### What depends on a few fields only -/

@[simp] theorem respond_bufLen (status : Cause) (diag : BitVec 3) :
    (respond status diag s).bufLen = s.bufLen := rfl
@[simp] theorem respond_frame (status : Cause) (diag : BitVec 3) :
    (respond status diag s).frame = s.frame := rfl
@[simp] theorem holdCommand_bufLen (configures : Nat) : (holdCommand configures s).bufLen = s.bufLen := rfl
@[simp] theorem holdCommand_frame (configures : Nat) : (holdCommand configures s).frame = s.frame := rfl
@[simp] theorem accept_bufLen (w : CmdWord) : (s.accept w).bufLen = s.bufLen := rfl
@[simp] theorem accept_frame (w : CmdWord) : (s.accept w).frame = s.frame := rfl
@[simp] theorem writePixels_bufLen (lo count : Nat) (red green blue : Half) :
    (writePixels lo count red green blue s).bufLen = s.bufLen := rfl
@[simp] theorem drawFrame_bufLen : (drawFrame s).bufLen = s.bufLen := rfl
@[simp] theorem sendConfigure_bufLen : (sendConfigure s).bufLen = s.bufLen := rfl
@[simp] theorem drawFrame_frame : (drawFrame s).frame = s.frame := rfl
@[simp] theorem sendConfigure_frame : (sendConfigure s).frame = s.frame := rfl

end Sys2Proof.Machine
end

