-- ==== Sys2Proof/Laws/Frame.lean ====
section
/-! SUPPORT. What each way of ending a command leaves unchanged, in the words of Safety.lean, one lemma per shared
operation. Their slot count is a variable: cite them, for unfolding a SET's literal count 1 makes `rfl` slow. -/

namespace Sys2Proof.Machine

variable (s : State)

theorem respond_answered (status : Cause) (diag : BitVec 3) : Answered status diag (respond status diag s) :=
  ⟨rfl, rfl, rfl⟩

theorem raiseFault_answered (cause : Cause) : Answered cause 0 (raiseFault cause s) := ⟨rfl, rfl, rfl⟩

theorem raiseFault_inputsKept (cause : Cause) : InputsKept s (raiseFault cause s) := ⟨rfl, rfl⟩

theorem writePixels_answered (lo count : Nat) (red green blue : Half) :
    Answered .none (rspDiag red green blue) (writePixels lo count red green blue s) := ⟨rfl, rfl, rfl⟩

theorem writePixels_registersKept (lo count : Nat) (red green blue : Half) :
    RegistersKept s (writePixels lo count red green blue s) := ⟨rfl, rfl, rfl, rfl, rfl, rfl, rfl, rfl⟩

theorem writePixels_inputsKept (lo count : Nat) (red green blue : Half) :
    InputsKept s (writePixels lo count red green blue s) := ⟨rfl, rfl⟩

/-- A pixel write changes no byte outside the slots it names (R102). -/
theorem writePixels_bufferKeptOutside (canonical : s.buf.wf) (lo count : Nat) (red green blue : Half) :
    BufferKeptOutside s (writePixels lo count red green blue s) (24 * lo) (24 * (lo + count)) := by
  intro a ha
  rw [writePixels_buf, read_fillSlots _ canonical _ _ _ (length_block ..), if_neg ha]

/-- A pixel write leaves the block in every slot it names (R100, R103). -/
theorem writePixels_read (canonical : s.buf.wf) (lo count : Nat) (red green blue : Half) (p k : Nat)
    (named : lo ≤ p ∧ p < lo + count) (hk : k < 24) :
    (writePixels lo count red green blue s).buf.read (24 * p + k) = (block s.params red green blue)[k]? := by
  rw [writePixels_buf, read_fillSlots _ canonical _ _ _ (length_block ..), if_pos (by omega),
    show (24 * p + k) % 24 = k by omega]

theorem writePixels_wf (canonical : s.buf.wf) (lo count : Nat) (red green blue : Half) :
    (writePixels lo count red green blue s).buf.wf := by
  rw [writePixels_buf]
  exact wf_fillSlots _ canonical _ _ _

theorem holdCommand_registersKept (configures : Nat) : RegistersKept s (holdCommand configures s) :=
  ⟨rfl, rfl, rfl, rfl, rfl, rfl, rfl, rfl⟩

theorem holdCommand_inputsKept (configures : Nat) : InputsKept s (holdCommand configures s) := ⟨rfl, rfl⟩

end Sys2Proof.Machine
end

