-- ==== Sys2Proof/Laws/Step.lean ====
section
/-! SUPPORT. What a command and a step can do, said once: a command reports its fault, or holds at the serial
interface, or completes; a step resets, idles, or runs one word. Proofs take these cases apart and do not unfold
`exec` or `step`. -/

namespace Sys2Proof.Machine

/-- The state a waiting command completes from: the same, the waiting step of the serial input used up. -/
abbrev State.served (s : State) : State := { s with serial := s.serial.advance }

/-- A command that passed every check, and the state it completes in. -/
inductive Completes : Instr → State → State → Prop where
  | construct {n : Half} {s : State} (fresh : s.constructed = false) (low : 1 ≤ n.toNat)
      (high : n.toNat ≤ s.params.maxPixels) :
      Completes (.construct false n) s (respond .none 0 (construct n s))
  | constructAndDraw {n : Half} {s : State} (fresh : s.constructed = false) (low : 1 ≤ n.toNat)
      (high : n.toNat ≤ s.params.maxPixels) (done : serialDone (.construct true n) s = true) :
      Completes (.construct true n) s (constructAndDraw n s.served)
  | set {index red green blue : Half} {s : State} (built : s.constructed = true)
      (inside : index.toNat < s.frameSize.toNat) :
      Completes (.set index red green blue) s (writePixels index.toNat 1 red green blue s)
  | fill {hasStart hasEnd : Bool} {start stop red green blue : Half} {s : State} {first last : Nat}
      (built : s.constructed = true) (first_eq : fillStart hasStart start = first)
      (last_eq : fillEnd hasEnd stop s.frameSize.toNat = last) (inside₁ : first < s.frameSize.toNat)
      (inside₂ : last < s.frameSize.toNat) :
      Completes (.fill hasStart hasEnd start stop red green blue) s
        (writePixels (min first last) (max first last + 1 - min first last) red green blue s)
  | draw {s : State} (built : s.constructed = true) (whole : s.frame.length = s.bufLen)
      (done : serialDone .draw s = true) : Completes .draw s (drawFrame s.served)
  | configure {s : State} (built : s.constructed = true) (done : serialDone .configure s = true) :
      Completes .configure s (sendConfigure s.served)

/-- A transfer completes when the interface accepts what is left, and holds otherwise. -/
theorem transfer_eq (configures bytes : Nat) (complete : State → State) (s : State) :
    transfer configures bytes complete s =
      if s.serial.accepts (configures + bytes - s.accepted) then complete s.served
      else holdCommand configures s := rfl

/-- A command whose check fails raises that fault, whatever else holds (R142, R143). -/
theorem exec_of_faultOf {i : Instr} {s : State} (h : faultOf i s ≠ .none) :
    exec i s = .next (raiseFault (faultOf i s) s) := by
  cases i with
  | construct autoDraw n =>
    simp only [faultOf] at h ⊢
    simp only [exec, execConstruct]
    by_cases hc : s.constructed = true
    · simp [hc]
    · by_cases hn : n.toNat = 0 ∨ n.toNat > s.params.maxPixels
      · rw [if_neg hc, if_neg hc, if_pos hn, if_pos (by omega)]
      · simp [hc, hn] at h
  | set index red green blue =>
    simp only [faultOf] at h ⊢
    simp only [exec, execSet]
    by_cases hc : s.constructed = true
    · by_cases hn : index.toNat ≥ s.frameSize.toNat
      · simp [hc, hn]
      · simp [hc, hn] at h
    · simp [hc]
  | fill hasStart hasEnd start stop red green blue =>
    simp only [faultOf] at h ⊢
    simp only [exec, execFill]
    by_cases hc : s.constructed = true
    · by_cases h1 : fillStart hasStart start ≥ s.frameSize.toNat
      · simp [hc, h1]
      · by_cases h2 : fillEnd hasEnd stop s.frameSize.toNat ≥ s.frameSize.toNat
        · simp [hc, h1, h2]
        · simp [hc, h1, h2] at h
    · simp [hc]
  | draw =>
    simp only [faultOf] at h ⊢
    simp only [exec, execDraw]
    by_cases hc : s.constructed = true
    · simp [hc] at h
    · simp [hc]
  | configure =>
    simp only [faultOf] at h ⊢
    simp only [exec, execConfigure]
    by_cases hc : s.constructed = true
    · simp [hc] at h
    · simp [hc]

/-- A command that reaches a next state raises its fault, or holds at the serial interface, or completes. -/
theorem exec_cases {i : Instr} {s t : State} (h : exec i s = .next t) :
    (faultOf i s ≠ .none ∧ t = raiseFault (faultOf i s) s) ∨
    (faultOf i s = .none ∧ waitsOnSerial i = true ∧ serialDone i s = false ∧
      t = holdCommand (configuresOf i) s) ∨
    (faultOf i s = .none ∧ Completes i s t) := by
  by_cases hf : faultOf i s = .none
  · right
    cases i with
    | construct autoDraw n =>
      have hf' := hf
      simp only [faultOf] at hf'
      by_cases hc : s.constructed = true
      · simp [hc] at hf'
      · by_cases hn : n.toNat = 0 ∨ n.toNat > s.params.maxPixels
        · rw [if_neg hc, if_pos hn] at hf'; simp at hf'
        · simp only [exec, execConstruct, if_neg hc] at h
          rw [if_neg (by omega)] at h
          have hc' : s.constructed = false := by simpa using hc
          cases autoDraw with
          | false => cases h; exact .inr ⟨hf, .construct hc' (by omega) (by omega)⟩
          | true =>
            rw [if_pos rfl, transfer_eq] at h
            by_cases hd : s.serial.accepts (1 + bufferLength n.toNat - s.accepted) = true
            · rw [if_pos hd] at h; cases h
              exact .inr ⟨hf, .constructAndDraw hc' (by omega) (by omega) hd⟩
            · rw [if_neg hd] at h; cases h
              exact .inl ⟨hf, rfl, by simpa [serialDone, configuresOf, frameBytesOf] using hd, rfl⟩
    | set index red green blue =>
      have hf' := hf
      simp only [faultOf] at hf'
      by_cases hc : s.constructed = true
      · by_cases hn : index.toNat ≥ s.frameSize.toNat
        · simp [hc, hn] at hf'
        · simp [exec, execSet, hc, hn] at h
          subst h
          exact .inr ⟨hf, .set hc (by omega)⟩
      · simp [hc] at hf'
    | fill hasStart hasEnd start stop red green blue =>
      have hf' := hf
      simp only [faultOf] at hf'
      by_cases hc : s.constructed = true
      · by_cases h1 : fillStart hasStart start ≥ s.frameSize.toNat
        · simp [hc, h1] at hf'
        · by_cases h2 : fillEnd hasEnd stop s.frameSize.toNat ≥ s.frameSize.toNat
          · simp [hc, h1, h2] at hf'
          · simp [exec, execFill, hc, h1, h2] at h
            subst h
            exact .inr ⟨hf, .fill hc rfl rfl (by omega) (by omega)⟩
      · simp [hc] at hf'
    | draw =>
      have hc : s.constructed = true := by
        by_contra hc; simp [faultOf, hc] at hf
      by_cases hw : s.frame.length = s.bufLen
      · simp only [exec, execDraw, hc, hw, transfer_eq] at h
        simp only [Bool.not_true, Bool.false_eq_true, if_false, if_true] at h
        by_cases hd : s.serial.accepts (0 + s.bufLen - s.accepted) = true
        · rw [if_pos hd] at h; cases h
          exact .inr ⟨hf, .draw hc hw hd⟩
        · rw [if_neg hd] at h; cases h
          exact .inl ⟨hf, rfl, by simpa [serialDone, configuresOf, frameBytesOf] using hd, rfl⟩
      · simp [exec, execDraw, hc, hw] at h
    | configure =>
      have hc : s.constructed = true := by
        by_contra hc; simp [faultOf, hc] at hf
      simp only [exec, execConfigure, hc, transfer_eq] at h
      simp only [Bool.not_true, Bool.false_eq_true, if_false] at h
      by_cases hd : s.serial.accepts (1 + 0 - s.accepted) = true
      · rw [if_pos hd] at h; cases h
        exact .inr ⟨hf, .configure hc hd⟩
      · rw [if_neg hd] at h; cases h
        exact .inl ⟨hf, rfl, by simpa [serialDone, configuresOf, frameBytesOf] using hd, rfl⟩
  · rw [exec_of_faultOf hf] at h
    cases h
    exact .inl ⟨hf, rfl⟩

/-- A command that passes every check, its transfers accepted, completes. -/
theorem exec_of_completes {i : Instr} {s t : State} (h : Completes i s t) : exec i s = .next t := by
  cases h with
  | @construct n _ fresh low high =>
    simp only [exec, execConstruct, fresh, Bool.false_eq_true, if_false]
    rw [if_neg (by omega)]
  | @constructAndDraw n _ fresh low high done =>
    simp only [exec, execConstruct, fresh, Bool.false_eq_true, if_false, if_true, transfer_eq]
    rw [if_neg (by omega)]
    exact congrArg _ (if_pos done)
  | set built inside =>
    simp only [exec, execSet, built, Bool.not_true, Bool.false_eq_true, if_false]
    rw [if_neg (by omega)]
  | fill built first_eq last_eq inside₁ inside₂ =>
    simp only [exec, execFill, built, Bool.not_true, Bool.false_eq_true, if_false, first_eq, last_eq]
    rw [if_neg (by omega)]
  | draw built whole done =>
    simp only [exec, execDraw, built, Bool.not_true, Bool.false_eq_true, if_false, whole, if_true, transfer_eq]
    exact congrArg _ (if_pos (by simpa [serialDone, configuresOf, frameBytesOf] using done))
  | configure built done =>
    simp only [exec, execConfigure, built, Bool.not_true, Bool.false_eq_true, if_false, transfer_eq]
    exact congrArg _ (if_pos done)

/-- A waiting command that passes every check holds while its transfers are not all accepted. -/
theorem exec_of_held {i : Instr} {s : State} (checks : faultOf i s = .none) (waits : waitsOnSerial i = true)
    (pending : serialDone i s = false) (whole : i = .draw → s.frame.length = s.bufLen) :
    exec i s = .next (holdCommand (configuresOf i) s) := by
  have no : ∀ k, serialDone i s = s.serial.accepts k → ¬ s.serial.accepts k = true := by
    intro k hk; rw [← hk, pending]; simp
  cases i with
  | construct autoDraw n =>
    obtain rfl : autoDraw = true := waits
    simp only [faultOf] at checks
    split at checks
    · cases checks
    · next hc =>
      split at checks
      · cases checks
      · simp only [exec, execConstruct, if_neg hc, if_true, transfer_eq]
        rw [if_neg (by omega)]
        exact congrArg _ (if_neg (no _ rfl))
  | set => cases waits
  | fill => cases waits
  | draw =>
    have built : s.constructed = true := by by_contra hc; simp [faultOf, hc] at checks
    simp only [exec, execDraw, built, Bool.not_true, Bool.false_eq_true, if_false, whole rfl, if_true,
      transfer_eq]
    exact congrArg _ (if_neg (no _ rfl))
  | configure =>
    have built : s.constructed = true := by by_contra hc; simp [faultOf, hc] at checks
    simp only [exec, execConfigure, built, Bool.not_true, Bool.false_eq_true, if_false, transfer_eq]
    exact congrArg _ (if_neg (no _ rfl))

/-- No command is refused. -/
theorem exec_not_refused (i : Instr) (s : State) (r : Refusal) : exec i s ≠ .refused r := by
  cases i <;> simp only [exec, execConstruct, execSet, execFill, execConfigure, execDraw] <;>
    (repeat' split) <;> simp

/-- The word a step runs, and the state it runs it in: the command in progress, or the one command presented. -/
inductive Runs (s : State) : CmdWord → State → Prop where
  | resumed {w : CmdWord} (held : s.inFlight = some w) : Runs s w s
  | accepted {w : CmdWord} (free : s.inFlight = none) (one : s.presented = [w]) : Runs s w (s.accept w)

/-- In the state in which a word runs, that word is the command in progress. -/
theorem Runs.inFlight {s r : State} {w : CmdWord} (h : Runs s w r) : r.inFlight = some w := by
  cases h with
  | resumed held => exact held
  | accepted _ _ => rfl

/-- A step that reaches a next state resets, idles, or runs one word, which is illegal or one of the commands. -/
theorem step_cases {s t : State} (h : step s = .next t) :
    (s.rst = true ∧ t = s.powerOn) ∨
    (s.rst = false ∧ s.inFlight = none ∧ s.presented = [] ∧ t = s) ∨
    (s.rst = false ∧ ∃ w r, Runs s w r ∧
      ((∃ e, decode w = .error e ∧ t = raiseFault .illegalCommand r) ∨
        ∃ i, decode w = .ok i ∧ exec i r = .next t)) := by
  have run : ∀ w r, runWord w r = .next t → (∃ e, decode w = .error e ∧ t = raiseFault .illegalCommand r) ∨
      ∃ i, decode w = .ok i ∧ exec i r = .next t := by
    intro w r hr
    rw [runWord] at hr
    split at hr
    · next i hi => exact .inr ⟨i, hi, hr⟩
    · next e he => cases hr; exact .inl ⟨e, he, rfl⟩
  rw [step] at h
  by_cases hr : s.rst = true
  · rw [if_pos hr] at h; cases h; exact .inl ⟨hr, rfl⟩
  · rw [if_neg hr] at h
    have hr' : s.rst = false := by simpa using hr
    right
    split at h
    · next w hw => exact .inr ⟨hr', w, s, .resumed hw, run w s h⟩
    · next hn =>
      split at h
      · next hp => cases h; exact .inl ⟨hr', hn, hp, rfl⟩
      · next w hp => exact .inr ⟨hr', w, _, .accepted hn hp, run w _ h⟩
      · cases h

/-- A run of one step more, on any machine, from a state whose step is known. -/
theorem run_succ_of_next (M : Host.Core) {s t : M.State} (h : M.step s = .next t) (k : Nat) :
    M.run (k + 1) s = M.run k t := by
  rw [Host.Core.run, h]

/-- The same for this machine. -/
theorem run_succ_of_step {s t : State} (h : step s = .next t) (k : Nat) :
    Sys2Proof.core.run (k + 1) s = Sys2Proof.core.run k t :=
  run_succ_of_next Sys2Proof.core h k

end Sys2Proof.Machine
end

