-- ==== Sys2Proof/Laws/Invariant.lean ====
section
/-! SUPPORT. What each shared operation does to the invariant of Safety.lean, one lemma per operation, and the small
facts those lemmas rest on. -/

namespace Sys2Proof.Machine

variable {s : State}

/-! ### Small facts -/

/-- A command whose transfers are not all accepted has some left after the waiting step (R122). -/
theorem handshakes_pending {i : Instr} (h : serialDone i s = false) :
    s.accepted + s.serial.granted < configuresOf i + frameBytesOf i s := by
  simp only [serialDone, SerialInput.accepts] at h
  simp only [SerialInput.granted]
  split at h <;> simp_all <;> omega

/-- The buffer of a constructed block fits in ADDR_W bits (R6, R22). -/
theorem bufLen_le_addressSpace (hi : RunInv s) (built : s.constructed = true) :
    s.bufLen ≤ 2 ^ s.params.addrWidth := by
  have h := hi.size built
  have enough := Laws.addrWidth_enough s.params
  simp only [State.bufLen, bufferLength] at *
  omega

/-- The free value of SEQ_ADDR is ADDR_W bits wide (R22). -/
theorem freeSeqAddr_lt (s : State) : s.freeSeqAddr.toNat < 2 ^ s.params.addrWidth := by
  rw [State.freeSeqAddr, BitVec.toNat_ofNat]
  exact Nat.lt_of_le_of_lt (Nat.mod_le _ _) (Nat.mod_lt _ (Nat.two_pow_pos _))

/-- The frame of a constructed block has L bytes, the last of them the trailer 0x00 (R31, R121). -/
theorem frame_whole (hi : RunInv s) (built : s.constructed = true) :
    s.frame.length = s.bufLen ∧ s.frame.getLast? = some 0x00 := by
  have exist : ∀ a < s.bufLen, (s.buf.read a).isSome = true := fun a ha => (hi.extent built a).mpr ha
  have length : s.frame.length = s.bufLen := length_bytesBelow exist
  refine ⟨length, ?_⟩
  rw [List.getLast?_eq_getElem?, length, State.frame, bytesBelow_getElem? exist, State.bufLen, bufferLength,
    if_pos (by omega)]
  exact hi.trailer built

/-- Every diagnostic of a command reports a value outside 0..255 (R85, R86). -/
theorem of_mem_diagEvents (red green blue : Half) {e : Event} (h : e ∈ diagEvents red green blue) :
    ∃ channel value, e = .diag channel value ∧ (value.toInt < 0 ∨ 255 < value.toInt) := by
  have outside : ∀ x : Half, (coerce x).2 = true → x.toInt < 0 ∨ 255 < x.toInt := by
    intro x hx
    rw [coerce] at hx
    split at hx
    · cases hx
    · omega
  simp only [diagEvents, List.mem_append] at h
  rcases h with (h | h) | h <;> split at h <;> simp at h <;> subst h <;>
    exact ⟨_, _, rfl, outside _ (by assumption)⟩

/-- A trace with diagnostics after it holds an event of another kind exactly where it did before. -/
theorem mem_append_diagEvents {p : Event → Bool} (hp : ∀ channel value, p (.diag channel value) = false)
    (events : List Event) (red green blue : Half) :
    (∃ e ∈ events ++ diagEvents red green blue, p e = true) ↔ ∃ e ∈ events, p e = true := by
  constructor
  · rintro ⟨e, he, hpe⟩
    rcases List.mem_append.mp he with he | he
    · exact ⟨e, he, hpe⟩
    · obtain ⟨_, _, rfl, _⟩ := of_mem_diagEvents _ _ _ he
      simp [hp] at hpe
  · rintro ⟨e, he, hpe⟩
    exact ⟨e, List.mem_append_left _ he, hpe⟩

/-! ### One lemma per operation -/

/-- Accepting a command keeps the invariant. -/
theorem runInv_accept (w : CmdWord) (hi : RunInv s) : RunInv (s.accept w) :=
  { hi with quiet := fun _ => rfl }

/-- Ending a command keeps the invariant. -/
theorem runInv_respond (status : Cause) (diag : BitVec 3) (hi : RunInv s) : RunInv (respond status diag s) :=
  { hi with seq_addr := freeSeqAddr_lt _, quiet := fun _ => rfl }

/-- Raising a fault keeps the invariant (R142). -/
theorem runInv_raiseFault {cause : Cause} (known : cause ≠ .none) (hi : RunInv s) :
    RunInv (raiseFault cause s) :=
  { hi with cause_known := by simpa using known, seq_addr := freeSeqAddr_lt _, quiet := fun _ => rfl }

/-- A waiting step of the serial input keeps the invariant. -/
theorem runInv_served (hi : RunInv s) : RunInv s.served := { hi with }

/-- A waiting step keeps the invariant: its command is in progress, and a next frame byte lies within ADDR_W bits
(R22, R122). -/
theorem runInv_holdCommand {configures bytes : Nat} (hi : RunInv s) (busy : s.inFlight ≠ none)
    (fits : bytes ≤ 2 ^ s.params.addrWidth) (pending : s.accepted + s.serial.granted < configures + bytes) :
    RunInv (holdCommand configures s) :=
  { hi with
    seq_addr := by
      rw [holdCommand_seqAddr, holdCommand_params]
      split
      · rw [BitVec.toNat_ofNat]
        exact Nat.lt_of_le_of_lt (Nat.mod_le _ _) (by omega)
      · exact freeSeqAddr_lt s
    quiet := fun idle => absurd idle busy }

/-- The ghost flag has no part in the invariant (R27). -/
theorem runInv_noteCallerError (isError : Bool) (hi : RunInv s) : RunInv (noteCallerError isError s) :=
  { hi with }

/-- A configure request of a constructed block keeps the invariant (R26, R124). -/
theorem runInv_emitConfigure (built : s.constructed = true) (hi : RunInv s) : RunInv (emitConfigure s) :=
  { hi with
    idle_before := fun h => by simp [built] at h
    configured_iff := by simp [Event.isConfigure]
    drawn_iff := by simp [hi.drawn_iff, Event.isWrite]
    configures_fixed := by
      intro order clock h
      simp only [emitConfigure_trace, List.mem_append, List.mem_singleton, Event.configure.injEq] at h
      rcases h with h | ⟨rfl, rfl⟩
      · exact hi.configures_fixed _ _ h
      · exact ⟨rfl, rfl⟩
    frames_whole := fun bytes h => hi.frames_whole bytes (by simpa using h)
    diags_due := fun channel value h => hi.diags_due channel value (by simpa using h) }

/-- A whole frame of a constructed block keeps the invariant (R26, R121). -/
theorem runInv_emitWrite {bytes : List Byte} (built : s.constructed = true)
    (whole : bytes.length = s.bufLen ∧ bytes.getLast? = some 0x00) (hi : RunInv s) :
    RunInv (emitWrite bytes s) :=
  { hi with
    idle_before := fun h => by simp [built] at h
    configured_iff := by simp [hi.configured_iff, Event.isConfigure]
    drawn_iff := by simp [Event.isWrite]
    configures_fixed := fun order clock h => hi.configures_fixed order clock (by simpa using h)
    frames_whole := by
      intro sent h
      simp only [emitWrite_trace, List.mem_append, List.mem_singleton, Event.write.injEq] at h
      rcases h with h | rfl
      · exact hi.frames_whole _ h
      · exact whole
    diags_due := fun channel value h => hi.diags_due channel value (by simpa using h) }

/-- Building the buffer establishes what the invariant asks of a constructed block (R31, R94). -/
theorem runInv_construct {n : Half} (hi : RunInv s) (fresh : s.constructed = false) (low : 1 ≤ n.toNat)
    (high : n.toNat ≤ s.params.maxPixels) : RunInv (construct n s) :=
  { hi with
    canonical := wf_blankBuffer _ _
    unbuilt := nofun
    size := fun _ => ⟨low, high⟩
    extent := fun _ a => isSome_read_blankBuffer ..
    trailer := fun _ => by simp [read_blankBuffer]
    slots := by
      intro _ p hp
      refine ⟨0, 0, 0, slot_eq (by simp) fun k hk => ?_⟩
      have black := block_black s.params
      simp only [block, show coerce 0 = (0, false) from coerce_zero] at black
      rw [construct_params, black, construct_buf, read_blankBuffer,
        if_pos (by simp only [construct_frameSize] at hp; omega), List.getElem?_replicate, if_pos hk]
    idle_before := nofun
    frames_whole := by
      intro bytes h
      have drawn : s.drawn = true := hi.drawn_iff.mpr ⟨_, h, rfl⟩
      simp [(hi.idle_before fresh).2] at drawn }

/-- A pixel write inside the frame keeps the invariant (R31, R102). -/
theorem runInv_writePixels {lo count : Nat} (red green blue : Half) (hi : RunInv s) (built : s.constructed = true)
    (inside : lo + count ≤ s.frameSize.toNat) : RunInv (writePixels lo count red green blue s) := by
  rw [writePixels]
  apply runInv_respond
  have read := read_fillSlots s.buf hi.canonical lo count (block s.params red green blue) (length_block ..)
  have kept : ∀ e ∈ s.trace ++ diagEvents red green blue, e.isDiag = false → e ∈ s.trace := by
    intro e he hd
    rcases List.mem_append.mp he with he | he
    · exact he
    · obtain ⟨_, _, rfl, _⟩ := of_mem_diagEvents _ _ _ he
      cases hd
  exact
  { hi with
    canonical := wf_fillSlots _ hi.canonical _ _ _
    unbuilt := fun h => by simp [built] at h
    extent := by
      intro _ a
      rw [read]
      split
      · rw [List.getElem?_eq_getElem (by simp; omega)]
        simp only [State.bufLen, bufferLength, Option.isSome_some, true_iff]
        omega
      · exact hi.extent built a
    trailer := by
      intro _
      rw [read, if_neg (by show ¬ (_ ∧ 24 * s.frameSize.toNat < _); omega)]
      exact hi.trailer built
    slots := by
      intro _ p hp
      rw [slot_fillSlots _ hi.canonical _ _ _ (length_block ..)]
      split
      · exact ⟨_, _, _, rfl⟩
      · exact hi.slots built p hp
    configured_iff := hi.configured_iff.trans (mem_append_diagEvents (fun _ _ => rfl) ..).symm
    drawn_iff := hi.drawn_iff.trans (mem_append_diagEvents (fun _ _ => rfl) ..).symm
    configures_fixed := fun order clock h => hi.configures_fixed order clock (kept _ h rfl)
    frames_whole := fun bytes h => hi.frames_whole bytes (kept _ h rfl)
    diags_due := by
      intro channel value h
      rcases List.mem_append.mp h with h | h
      · exact hi.diags_due _ _ h
      · obtain ⟨_, _, e, outside⟩ := of_mem_diagEvents _ _ _ h
        cases e
        exact outside }

/-- Power-on reset gives the invariant (R34, R160). -/
theorem runInv_powerOn (hi : RunInv s) : RunInv s.powerOn := by
  constructor
  · exact hi.params_ok
  all_goals simp [State.powerOn, State.reset, Memory.wf]

end Sys2Proof.Machine
end

