-- ==== Sys2Proof/Laws/PerInstr.lean ====
section
/-! SUPPORT. Facts stated for each command, one lemma per constructor. -/

namespace Sys2Proof.Laws

/-- The word of a command carries its OP (R63) and a zero RSV field (R64). -/
def OpcodeField.Statement (i : Instr) : Prop := fieldOp (encode i) = i.opcode ∧ fieldRsv (encode i) = 0

theorem OpcodeField.construct (autoDraw : Bool) (n : Half) : OpcodeField.Statement (.construct autoDraw n) := by
  simp [OpcodeField.Statement, encode]

theorem OpcodeField.set (index red green blue : Half) : OpcodeField.Statement (.set index red green blue) := by
  simp [OpcodeField.Statement, encode]

theorem OpcodeField.fill (hasStart hasEnd : Bool) (start stop red green blue : Half) :
    OpcodeField.Statement (.fill hasStart hasEnd start stop red green blue) := by
  simp [OpcodeField.Statement, encode]

theorem OpcodeField.draw : OpcodeField.Statement .draw := by
  simp [OpcodeField.Statement, encode]

theorem OpcodeField.configure : OpcodeField.Statement .configure := by
  simp [OpcodeField.Statement, encode]

end Sys2Proof.Laws
end

