-- ==== Sys2Proof/Tests/Slice0.lean ====
section
/-! SUPPORT. The model's own tests: ill-formed terms refused, words written out from the encoding's rules, one-step
tests whose expected results stand in spec/95_test_vectors.md (or, where none stands there, in the rule cited), and one
witness for the hypotheses of every statement that has some. -/

namespace Sys2Proof.Tests
open Sys2Proof.Machine

/-! ### WellFormed: each check refuses an ill-formed term (R64, R65) -/

theorem test_wf_refuses_start_without_flag : (Instr.fill false true 1 0 0 0 0).wf = false := by decide
theorem test_wf_refuses_end_without_flag : (Instr.fill true false 0 1 0 0 0).wf = false := by decide
theorem test_wf_accepts_fill : (Instr.fill true true 3 1 0 0 0).wf = true := by decide

/-! ### Decode: words from 95_test_vectors.md §2.3 to §3 and R69 -/

theorem test_decode_construct : decode 0x1800_0004_0000_0000_0000_0000#96 = .ok (.construct true 4) := by decide
theorem test_decode_construct_noautodraw :
    decode 0x1000_000A_0000_0000_0000_0000#96 = .ok (.construct false 10) := by decide
theorem test_decode_set : decode 0x2000_0000_0000_FFFF_0100_0000#96 = .ok (.set 0 (-1) 256 0) := by decide
theorem test_decode_set_bits : decode
    0b0010_0_0_0000000000_0000000000000111_0000000000000000_0000000000000001_0000000000000010_0000000000000011#96
      = .ok (.set 7 1 2 3) := by decide
theorem test_decode_fill : decode 0x3000_0000_0000_0009_0008_0007#96 = .ok (.fill false false 0 0 9 8 7) := by decide
theorem test_decode_fill_start :
    decode 0x3800_0003_0000_0001_0002_0003#96 = .ok (.fill true false 3 0 1 2 3) := by decide
theorem test_decode_fill_end :
    decode 0x3400_0000_0001_0004_0005_0006#96 = .ok (.fill false true 0 1 4 5 6) := by decide
theorem test_decode_fill_both :
    decode 0x3C00_0003_0001_0012_FFFF_012C#96 = .ok (.fill true true 3 1 0x12 (-1) 300) := by decide
theorem test_decode_draw : decode 0x4000_0000_0000_0000_0000_0000#96 = .ok .draw := by decide
theorem test_decode_configure : decode 0x5000_0000_0000_0000_0000_0000#96 = .ok .configure := by decide

theorem test_decode_refuses_zero : decode 0#96 = .error .reservedOpcode := by decide
theorem test_decode_refuses_op6 : decode 0x6000_0000_0000_0000_0000_0000#96 = .error .reservedOpcode := by decide
theorem test_decode_refuses_opF : decode 0xF000_0000_0000_0000_0000_0000#96 = .error .reservedOpcode := by decide
theorem test_decode_refuses_construct_f0 :
    decode 0x1400_000A_0000_0000_0000_0000#96 = .error .nonzeroField := by decide
theorem test_decode_refuses_set_b : decode 0x2000_0000_0001_0000_0000_0000#96 = .error .nonzeroField := by decide
theorem test_decode_refuses_fill_start :
    decode 0x3000_0001_0000_0000_0000_0000#96 = .error .nonzeroField := by decide
theorem test_decode_refuses_fill_end :
    decode 0x3000_0000_0001_0000_0000_0000#96 = .error .nonzeroField := by decide
theorem test_decode_refuses_draw_cb :
    decode 0x4000_0000_0000_0000_0000_0001#96 = .error .nonzeroField := by decide
theorem test_decode_refuses_configure_f1 :
    decode 0x5800_0000_0000_0000_0000_0000#96 = .error .nonzeroField := by decide
theorem test_decode_refuses_rsv :
    decode 0x2001_0000_0000_0000_0000_0000#96 = .error .nonzeroField := by decide

/-! ### The assembler (R67, R68; the lines of P1, P2 and P3) -/

theorem test_asm_construct :
    assembleLine "CONSTRUCT 3, noautodraw".toList = some 0x1000_0003_0000_0000_0000_0000#96 := by decide
theorem test_asm_construct_autodraw :
    assembleLine "CONSTRUCT 4".toList = some 0x1800_0004_0000_0000_0000_0000#96 := by decide
theorem test_asm_set :
    assembleLine "SET -1, 0, 0, 0".toList = some 0x2000_FFFF_0000_0000_0000_0000#96 := by decide
theorem test_asm_fill_both :
    assembleLine "FILL 0x12, -1, 300, 3, 1".toList = some 0x3C00_0003_0001_0012_FFFF_012C#96 := by decide
theorem test_asm_fill_end :
    assembleLine "FILL 9, 9, 9, end=5".toList = some 0x3400_0000_0005_0009_0009_0009#96 := by decide
theorem test_asm_fill_start :
    assembleLine "FILL 1, 2, 3, start=3".toList = some 0x3800_0003_0000_0001_0002_0003#96 := by decide
theorem test_asm_clear : assembleLine "CLEAR".toList = some 0x3000_0000_0000_0000_0000_0000#96 := by decide
theorem test_asm_refuses_channel : assembleLine "SET 0, 32768, 0, 0".toList = none := by decide
theorem test_asm_refuses_index : assembleLine "SET 65536, 0, 0, 0".toList = none := by decide

/-! ### The ROM, coercion and the expander (95_test_vectors.md §2.1, §2.2) -/

/-- Some parameters for the tests; R7 fixes none of them but MAX_PIXELS = 10 of §2.3. -/
def cfg : Config :=
  { zeroByte := 0xC0, oneByte := 0xF8, spiClockKhz := 6400, maxPixels := 10, extConfigured := false }

/-- Z and O of 95_test_vectors.md. -/
abbrev Z : Byte := 0xC0
abbrev O : Byte := 0xF8

theorem test_wave_A5 : wave cfg 0xA5 = [O, Z, O, Z, Z, O, Z, O] := by decide
theorem test_wave_12 : wave cfg 0x12 = [Z, Z, Z, O, Z, Z, O, Z] := by decide
theorem test_rom_addresses : romAt cfg 0x528 = O ∧ romAt cfg 0x52F = O ∧ romAt cfg 0x529 = Z := by decide
theorem test_coerce_bounds : coerce (-32768) = (255, true) ∧ coerce (-1) = (255, true) ∧ coerce 0 = (0, false) ∧
    coerce 255 = (255, false) ∧ coerce 256 = (255, true) ∧ coerce 32767 = (255, true) := by decide
theorem test_block : block cfg 0xA5 0x5A 0x0F =
    [Z, O, Z, O, O, Z, O, Z, O, Z, O, Z, Z, O, Z, O, Z, Z, Z, Z, O, O, O, O] := by decide

/-! ### One step on small states (95_test_vectors.md §2.3 to §3) -/

/-- The state after reset, with those parameters. -/
def fresh : State := { State.reset with params := cfg }

/-- After `CONSTRUCT n, noautodraw`. -/
def builtWith (n : Half) : State := respond .none 0 (construct n fresh)

/-- One pixel. -/
abbrev one : State := builtWith 1

/-- The outcome is a next state that meets a test. -/
def gives (o : Host.Outcome State Fault Refusal) (p : State → Bool) : Bool :=
  match o with
  | .next t => p t
  | .fault _ => false
  | .refused _ => false

/-- The bytes the buffer lists, in order. -/
def State.bytes (s : State) : List Byte := s.buf.map Prod.snd

/-- A response with that `rsp_status` code and `rsp_diag`. -/
def responds (code : BitVec 4) (diag : BitVec 3) (t : State) : Bool :=
  t.response.map (fun r => (r.statusCode, r.diag)) == some (code, diag)

/-- §2.4, row 1. -/
theorem test_construct : gives (exec (.construct false 1) fresh) fun t =>
    State.bytes t == List.replicate 24 Z ++ [0x00] && t.statusWord == 0x0001 && t.trace == [] &&
      responds 0 0 t := by decide

/-- §2.4, row 2. -/
theorem test_construct_autodraw : gives (exec (.construct true 1) fresh) fun t =>
    t.trace == [.configure .msbFirst 6400, .write (List.replicate 24 Z ++ [0x00])] &&
      t.statusWord == 0x0007 && t.callerErr == false := by decide

/-- P4, step 2. -/
theorem test_set : gives (exec (.set 0 0xA5 0x5A 0x0F) one) fun t =>
    State.bytes t == [Z, O, Z, O, O, Z, O, Z, O, Z, O, Z, Z, O, Z, O, Z, Z, Z, Z, O, O, O, O, 0x00] &&
      t.statusWord == 0x0001 && responds 0 0 t := by decide

/-- §2.5, row 3. -/
theorem test_set_coerces : gives (exec (.set 2 300 (-5) 0) (builtWith 3)) fun t =>
    State.bytes t ==
      List.replicate 48 Z ++ List.replicate 16 O ++ List.replicate 8 Z ++ [0x00] &&
      t.trace == [.diag .red 300, .diag .green (-5)] && responds 0 0b110 t := by decide

/-- P2, step 2: the range is reversed, green and blue are coerced. -/
theorem test_fill : gives (exec (.fill true true 3 1 0x12 (-1) 300) (builtWith 4)) fun t =>
    State.bytes t == List.replicate 24 Z ++
      (List.replicate 3 (List.replicate 8 O ++ [Z, Z, Z, O, Z, Z, O, Z] ++ List.replicate 8 O)).flatten ++ [0x00] &&
      t.trace == [.diag .green (-1), .diag .blue 300] && responds 0 0b011 t := by decide +kernel

/-- §2.6, row 5: the start is inside, the end is not. -/
theorem test_fill_range : gives (exec (.fill true true 0 1 300 0 0) one) fun t =>
    State.bytes t == State.bytes one && t.trace == [] && responds 6 0 t && t.statusWord == 0x0069 := by decide

/-- §2.7, row 1, for one pixel: the draw before any configure. -/
theorem test_draw : gives (exec .draw one) fun t =>
    t.trace == [.write (List.replicate 24 Z ++ [0x00])] && t.statusWord == 0x0005 && t.callerErr &&
      responds 0 0 t := by decide

/-- §2.7, row 6. -/
theorem test_draw_unconstructed : gives (exec .draw fresh) fun t =>
    t.trace == [] && t.statusWord == 0x0028 && t.callerErr == false && responds 2 0 t := by decide

/-- R124's example, for one pixel. -/
theorem test_configure : gives (exec .configure one) fun t =>
    t.trace == [.configure .msbFirst 6400] && t.statusWord == 0x0003 && t.callerErr == false := by decide

/-- §2.7, row 5: the second CONFIGURE. -/
theorem test_configure_twice :
    gives (exec .configure { one with configured := true, trace := [.configure .msbFirst 6400] }) fun t =>
      t.trace == [.configure .msbFirst 6400, .configure .msbFirst 6400] && t.statusWord == 0x0003 &&
        t.callerErr := by decide

/-- §2.3, row 3: BAD_FRAMESIZE, through the command port. -/
theorem test_step_bad_frame_size :
    gives (step (fresh.withFetchWord 96 0x1800_0000_0000_0000_0000_0000)) fun t =>
      responds 4 0 t && t.statusWord == 0x0048 && t.buf == [] := by decide

/-- §2.3, row 1: the all-zero word, through the command port. -/
theorem test_step_illegal : gives (step (fresh.withFetchWord 96 0)) fun t =>
    responds 1 0 t && t.statusWord == 0x0018 := by decide

/-- §2.5, row 5: `SET 65535, 1, 1, 1`. -/
theorem test_step_set_range :
    gives (step (one.withFetchWord 96 0x2000_FFFF_0000_0001_0001_0001)) fun t =>
      responds 5 0 t && t.statusWord == 0x0059 && State.bytes t == State.bytes one && t.trace == [] := by decide

/-- R152: two agents at once. -/
theorem test_step_refuses_two_streams :
    step { fresh with streams := [[encode .draw], [encode .draw]] } = .refused .concurrentCommands := by rfl

/-- R122: 10 of the 25 bytes are accepted; the block is busy, nothing is recorded, and byte 10 is offered next. -/
theorem test_draw_held :
    gives (step { one.present (encode .draw) with serial := { grants := [10], fair := false } }) fun t =>
      !t.cmdReady && t.trace == [] && t.statusWord == 0x0001 && t.accepted == 10 && t.seqAddr == 10 &&
        t.offeredBeat == some (.tx { data := Z, last := false }) := by decide

/-! ### Small facts the witnesses use -/

theorem fresh_runInv : RunInv fresh := by
  constructor
  · decide
  all_goals simp [fresh, State.reset, Memory.wf]

theorem builtWith_runInv (n : Half) (low : 1 ≤ n.toNat) (high : n.toNat ≤ 10) : RunInv (builtWith n) :=
  runInv_respond _ _ (runInv_construct fresh_runInv rfl low high)

theorem one_runInv : RunInv one := builtWith_runInv 1 (by decide) (by decide)

/-- One pixel, a DRAW in progress, with 10 bytes accepted and none more to come. -/
def stalled : State :=
  { one with
    inFlight := some (encode .draw)
    accepted := 10
    seqAddr := 10
    serial := { grants := [], fair := false } }

/-- The same, and the interface takes 5 bytes, then stalls a step, then takes all. -/
def slow : State := { stalled with serial := { grants := [5, 0], fair := true } }

theorem addrWidth_cfg : cfg.addrWidth = 8 := by decide

theorem stalled_runInv : RunInv stalled :=
  { one_runInv with
    seq_addr := by
      show (10#21).toNat < 2 ^ cfg.addrWidth
      rw [addrWidth_cfg]; decide
    quiet := nofun }

theorem slow_runInv : RunInv slow := { stalled_runInv with }

/-! ### Witnesses: hypotheses that are met together -/

theorem witness_DecodeOfEncode : ∃ i : Instr, i.wf = true := ⟨.fill true false 65535 0 (-1) 0 32767, by decide⟩

theorem witness_EncodeOfDecode : ∃ w i, decode w = .ok i := ⟨_, _, test_decode_fill_both⟩

/-- Both clauses, at their bounds: the last values accepted, and one past the upper bound of an index. -/
theorem witness_AssemblerOperandRanges :
    (∃ i r g b : Int, (-32768 ≤ i ∧ i ≤ 65535) ∧ (-32768 ≤ r ∧ r ≤ 32767) ∧ (-32768 ≤ g ∧ g ≤ 32767) ∧
      (-32768 ≤ b ∧ b ≤ 32767) ∧ i = 65535 ∧ r = -32768 ∧ g = 32767) ∧
    (∃ i r g b : Int, ¬ ((-32768 ≤ i ∧ i ≤ 65535) ∧ (-32768 ≤ r ∧ r ≤ 32767) ∧ (-32768 ≤ g ∧ g ≤ 32767) ∧
      (-32768 ≤ b ∧ b ≤ 32767)) ∧ i = 65536) :=
  ⟨⟨65535, -32768, 32767, 0, by decide⟩, ⟨65536, 0, 0, 0, by decide⟩⟩

theorem witness_ClearBlacksEveryPixel :
    ∃ i s, assemble .clear = some i ∧ RunInv s ∧ s.constructed = true := ⟨_, one, rfl, one_runInv, rfl⟩

/-- Both clauses at 0, 255 and one past either end. -/
theorem witness_CoercionRule : (∃ x : Half, 0 ≤ x.toInt ∧ x.toInt ≤ 255 ∧ x = 255) ∧
    (∃ x : Half, 0 ≤ x.toInt ∧ x.toInt ≤ 255 ∧ x = 0) ∧
    (∃ x : Half, (x.toInt < 0 ∨ 255 < x.toInt) ∧ x = 256) ∧
    (∃ x : Half, (x.toInt < 0 ∨ 255 < x.toInt) ∧ x = -1) :=
  ⟨⟨255, by decide⟩, ⟨0, by decide⟩, ⟨256, by decide⟩, ⟨-1, by decide⟩⟩

/-- FrameWireOrder and NoCommandStopsTheBlock. -/
theorem witness_runInv_built : ∃ s, RunInv s ∧ s.constructed = true := ⟨one, one_runInv, rfl⟩

/-- A DRAW is in progress when reset comes. -/
theorem witness_PowerOnReset : ∃ s : State, s.rst = true ∧ s.inFlight.isSome = true :=
  ⟨{ stalled with rst := true }, rfl, rfl⟩

/-- TxLastMarksTrailer and WireBitOrder: the last byte and its last bit. -/
theorem witness_WireBitOrder : ∃ (bytes : List Byte) (k j : Nat), k < bytes.length ∧ j < 8 ∧
    k + 1 = bytes.length ∧ j = 7 := ⟨[0xC0, 0x00], 1, 7, by decide⟩

/-- BlockDirectForm: the first and the last byte of a block. -/
theorem witness_BlockDirectForm : (0 < 24 ∧ 23 < 24) ∧ (block cfg 1 2 3).length = 24 := ⟨by decide, length_block ..⟩

/-- First clause, at both ends of the frame size and in both forms; second clause. -/
theorem witness_OnlyConstructSucceedsFirst : fresh.constructed = false ∧
    (∃ n : Half, 1 ≤ n.toNat ∧ n.toNat ≤ fresh.params.maxPixels ∧ n = 1 ∧
      serialDone (.construct true n) fresh = true) ∧
    (∃ n : Half, 1 ≤ n.toNat ∧ n.toNat ≤ fresh.params.maxPixels ∧ n = 10 ∧
      serialDone (.construct true n) fresh = true) ∧
    (∃ i : Instr, ∀ autoDraw n, i ≠ .construct autoDraw n) :=
  ⟨rfl, ⟨1, by decide, by decide, rfl, rfl⟩, ⟨10, by decide, by decide, rfl, rfl⟩, ⟨.draw, nofun⟩⟩

/-- At both ends of the frame size. -/
theorem witness_ConstructCompletes : fresh.constructed = false ∧
    (∃ n : Half, 1 ≤ n.toNat ∧ n.toNat ≤ fresh.params.maxPixels ∧ n = 1) ∧
    (∃ n : Half, 1 ≤ n.toNat ∧ n.toNat ≤ fresh.params.maxPixels ∧ n = 10) :=
  ⟨rfl, ⟨1, by decide⟩, ⟨10, by decide⟩⟩

theorem witness_ConstructAutodrawCompletes : fresh.constructed = false ∧
    ∃ n : Half, 1 ≤ n.toNat ∧ n.toNat ≤ fresh.params.maxPixels ∧ serialDone (.construct true n) fresh = true :=
  ⟨rfl, 10, by decide, by decide, rfl⟩

/-- With AUTODRAW = 1, and an earlier fault for the clause that keeps STATUS[7:3]. -/
theorem witness_StatusAfterConstruct :
    (∃ t, RunInv fresh ∧ exec (.construct true 1) fresh = .next t ∧ faultOf (.construct true 1) fresh = .none ∧
      serialDone (.construct true 1) fresh = true ∧ fresh.fault = false) ∧
    (∃ s t, RunInv s ∧ exec (.construct false 1) s = .next t ∧ faultOf (.construct false 1) s = .none ∧
      s.fault = true) :=
  ⟨⟨_, fresh_runInv, rfl, by decide, rfl, rfl⟩,
    ⟨raiseFault .notConstructed fresh, _, runInv_raiseFault (by decide) fresh_runInv, rfl, by decide, rfl⟩⟩

/-- The first and the last index of three pixels. -/
theorem witness_SetCompletes : ∃ s : State, s.constructed = true ∧ s.buf.wf ∧
    (0 : Half).toNat < s.frameSize.toNat ∧ (2 : Half).toNat < s.frameSize.toNat ∧ s.frameSize = 3 :=
  ⟨builtWith 3, rfl, (builtWith_runInv 3 (by decide) (by decide)).canonical, by decide, by decide, rfl⟩

/-- Both defaults, and a reversed range. -/
theorem witness_FillCompletes : ∃ s : State, s.constructed = true ∧ s.buf.wf ∧
    (∃ first last : Nat, first = 0 ∧ last = s.frameSize.toNat - 1 ∧ first < s.frameSize.toNat ∧
      last < s.frameSize.toNat) ∧
    (∃ start stop : Half, stop < start ∧ start.toNat < s.frameSize.toNat ∧ stop.toNat < s.frameSize.toNat) :=
  ⟨builtWith 3, rfl, (builtWith_runInv 3 (by decide) (by decide)).canonical, ⟨0, 2, by decide⟩, ⟨2, 0, by decide⟩⟩

/-- PixelWritesTouchNamedSlotsOnly: a SET, and a FILL whose range is reversed. -/
theorem witness_PixelWritesTouchNamedSlotsOnly : ∃ s : State, s.buf.wf ∧
    (∃ t, exec (.set 2 1 2 3) s = .next t) ∧ (∃ t, exec (.fill true true 2 0 1 2 3) s = .next t) :=
  ⟨builtWith 3, (builtWith_runInv 3 (by decide) (by decide)).canonical, ⟨_, rfl⟩, ⟨_, rfl⟩⟩

/-- The first index out of range; a start out of range, and an end alone. -/
theorem witness_FaultedWriteChangesNoByte : one.constructed = true ∧
    (∃ index : Half, one.frameSize.toNat ≤ index.toNat ∧ index = 1) ∧
    (∃ start stop : Half, one.frameSize.toNat ≤ fillStart true start ∧
      ¬ one.frameSize.toNat ≤ fillEnd true stop one.frameSize.toNat) ∧
    (∃ start stop : Half, ¬ one.frameSize.toNat ≤ fillStart true start ∧
      one.frameSize.toNat ≤ fillEnd true stop one.frameSize.toNat) :=
  ⟨rfl, ⟨1, by decide⟩, ⟨1, 0, by decide⟩, ⟨0, 1, by decide⟩⟩

/-- TrailerNeverWritten, in a constructed state: a SET and a FILL that go through. -/
theorem witness_TrailerNeverWritten : ∃ s : State, RunInv s ∧ s.constructed = true ∧
    (∃ t, exec (.set 0 1 2 3) s = .next t) ∧ (∃ t, exec (.fill false false 0 0 1 2 3) s = .next t) :=
  ⟨one, one_runInv, rfl, ⟨_, rfl⟩, ⟨_, rfl⟩⟩

/-- PixelWritesIdempotent: the same SET twice. -/
theorem witness_PixelWritesIdempotent : ∃ s t u : State, s.buf.wf ∧ exec (.set 0 300 2 3) s = .next t ∧
    exec (.set 0 300 2 3) t = .next u := ⟨one, _, _, one_runInv.canonical, rfl, rfl⟩

theorem witness_SequencerFormAgrees : ∃ blk : List Byte, blk.length = 24 := ⟨block cfg 1 2 3, length_block ..⟩

/-- The last index; the first one out of range, and 0xFFFF; a FILL's start alone and its end alone out of range. -/
theorem witness_SlotAddressesExact : ∃ s : State, RunInv s ∧ s.constructed = true ∧
    (∃ index : Nat, index < s.frameSize.toNat ∧ index = 9) ∧
    (∃ index : Half, s.frameSize.toNat ≤ index.toNat ∧ index = 10) ∧
    s.frameSize.toNat ≤ (0xFFFF : Half).toNat ∧
    (∃ start stop : Half, s.frameSize.toNat ≤ start.toNat ∧ ¬ s.frameSize.toNat ≤ stop.toNat) ∧
    (∃ start stop : Half, ¬ s.frameSize.toNat ≤ start.toNat ∧ s.frameSize.toNat ≤ stop.toNat) :=
  ⟨builtWith 10, builtWith_runInv 10 (by decide) (by decide), rfl, ⟨9, by decide⟩, ⟨10, by decide⟩, by decide,
    ⟨10, 9, by decide⟩, ⟨9, 10, by decide⟩⟩

/-- Both ends of MAX_PIXELS. -/
theorem witness_AddressWidthLeast : ({ cfg with maxPixels := 1 } : Config).wf = true ∧
    ({ cfg with maxPixels := 65535 } : Config).wf = true := by decide

theorem witness_DrawCompletes : ∃ s : State, s.constructed = true ∧
    (∀ a < s.bufLen, (s.buf.read a).isSome = true) ∧ serialDone .draw s = true :=
  ⟨one, rfl, fun a h => (one_runInv.extent rfl a).mpr h, rfl⟩

theorem witness_ConfigureCompletes : ∃ s : State, s.constructed = true ∧ serialDone .configure s = true :=
  ⟨one, rfl, rfl⟩

/-- A DRAW, a CONFIGURE and a CONSTRUCT with AUTODRAW, held. -/
theorem witness_HeldCommandShowsNothing :
    (∃ s : State, waitsOnSerial .draw = true ∧ faultOf .draw s = .none ∧ serialDone .draw s = false ∧
      ∀ a < s.bufLen, s.constructed = true → (s.buf.read a).isSome = true) ∧
    (∃ s : State, faultOf .configure s = .none ∧ serialDone .configure s = false ∧
      ∀ a < s.bufLen, s.constructed = true → (s.buf.read a).isSome = true) ∧
    (∃ s : State, faultOf (.construct true 1) s = .none ∧ serialDone (.construct true 1) s = false ∧
      s.constructed = false) :=
  ⟨⟨stalled, rfl, by decide, rfl, fun a h b => (stalled_runInv.extent b a).mpr h⟩,
    ⟨{ stalled with accepted := 0 }, by decide, rfl, fun a h b => (stalled_runInv.extent b a).mpr h⟩,
    ⟨{ fresh with serial := { grants := [25], fair := true } }, by decide, rfl, rfl⟩⟩

/-- The handshakes of a command that completes, and of one that is held with a command word in progress. -/
theorem witness_HandshakesAreTheEvents :
    (∃ s t : State, faultOf .draw s = .none ∧ exec .draw s = .next t ∧ serialDone .draw s = true) ∧
    (∃ (s t : State) (w : CmdWord), faultOf .draw s = .none ∧ exec .draw s = .next t ∧
      serialDone .draw s = false ∧ s.inFlight = some w ∧ decode w = .ok .draw) := by
  refine ⟨⟨one, drawFrame one.served, by decide, ?_, rfl⟩, ⟨stalled, holdCommand 0 stalled, encode .draw,
    by decide, ?_, rfl, rfl, by decide⟩⟩
  · exact exec_of_completes (.draw rfl (frame_whole one_runInv rfl).1 rfl)
  · exact exec_of_held (by decide) rfl rfl fun _ => (frame_whole stalled_runInv rfl).1

theorem witness_HeldDrawSeqAddr : ∃ s t : State, RunInv s ∧ s.constructed = true ∧
    serialDone .draw s = false ∧ exec .draw s = .next t :=
  ⟨stalled, holdCommand 0 stalled, stalled_runInv, rfl, rfl,
    exec_of_held (by decide) rfl rfl fun _ => (frame_whole stalled_runInv rfl).1⟩

/-- A step of the stalled DRAW. -/
theorem stalled_step : step stalled = .next (holdCommand 0 stalled) := by
  rw [step, if_neg (by decide)]
  show runWord (encode .draw) stalled = _
  rw [runWord, show decode (encode .draw) = .ok .draw by decide]
  exact exec_of_held (by decide) rfl rfl fun _ => (frame_whole stalled_runInv rfl).1

theorem witness_BusyPortTakesNoCommand : ∃ (s t : State) (w : CmdWord), s.rst = false ∧ s.inFlight = some w ∧
    step s = .next t := ⟨stalled, _, encode .draw, rfl, rfl, stalled_step⟩

theorem witness_DrawEventuallyCompletes : ∃ (s : State) (w : CmdWord), RunInv s ∧ s.rst = false ∧
    s.constructed = true ∧ s.inFlight = some w ∧ decode w = .ok .draw ∧ s.serial.fair = true :=
  ⟨slow, encode .draw, slow_runInv, rfl, rfl, rfl, by decide, rfl⟩

theorem witness_StalledDrawHangs : ∃ (s : State) (w : CmdWord), s.rst = false ∧ s.constructed = true ∧
    s.inFlight = some w ∧ decode w = .ok .draw ∧ s.frame.length = s.bufLen ∧
    s.serial = { grants := [], fair := false } ∧ s.accepted < s.bufLen :=
  ⟨stalled, encode .draw, rfl, rfl, rfl, by decide, (frame_whole stalled_runInv rfl).1, rfl, by decide⟩

theorem witness_DrawSendsWhatSetWrote : ∃ (index : Half) (s t u : State), RunInv s ∧ s.constructed = true ∧
    index.toNat < s.frameSize.toNat ∧ exec (.set index 1 2 3) s = .next t ∧ serialDone .draw t = true ∧
    exec .draw t = .next u := by
  have built : RunInv (writePixels 0 1 1 2 3 one) := runInv_writePixels _ _ _ one_runInv rfl (by decide)
  refine ⟨0, one, writePixels 0 1 1 2 3 one, drawFrame (writePixels 0 1 1 2 3 one).served, one_runInv, rfl,
    by decide, exec_of_completes (.set rfl (by decide)), rfl, ?_⟩
  exact exec_of_completes (.draw rfl (frame_whole built rfl).1 rfl)

/-- An illegal word, and one command for each cause of a legal one. -/
theorem witness_FaultHasNoOtherEffect : faultOfWord 0 fresh ≠ .none ∧ faultOfWord (encode .draw) fresh ≠ .none ∧
    faultOf .draw fresh ≠ .none ∧ faultOf (.construct true 1) one ≠ .none ∧
    faultOf (.construct false 11) fresh ≠ .none ∧ faultOf (.set 1 0 0 0) one ≠ .none ∧
    faultOf (.fill true false 1 0 0 0 0) one ≠ .none := by decide

/-- FaultIsSticky: a fault after an earlier one, of another cause. -/
theorem witness_FaultIsSticky : ∃ s t : State, s.rst = false ∧ step s = .next t ∧ s.fault = true ∧
    t.cause ≠ s.cause := by
  refine ⟨(raiseFault .notConstructed fresh).present (encode (.construct true 0)), _, rfl, rfl, rfl, ?_⟩
  show Cause.badFrameSize ≠ _
  decide

/-- ConstructionIsPermanent, FlagsRecordEvents, StepKeepsInvariant and StepKeepsSerialContract: a step of a constructed
state that meets the invariant and the contract. -/
theorem witness_step_of_built : ∃ s t : State, s.rst = false ∧ s.constructed = true ∧ RunInv s ∧
    SerialContract s ∧ step s = .next t :=
  ⟨stalled, _, rfl, rfl, stalled_runInv,
    ⟨fun _ => by decide, fun _ => by simp [stalled, builtWith, fresh, State.reset],
      fun _ _ before bytes after h => by simp [stalled, builtWith, fresh, State.reset] at h⟩, stalled_step⟩

/-- CallerErrOnlyByCallerErrors: a DRAW that sets the flag. -/
theorem witness_CallerErrOnlyByCallerErrors :
    ∃ s t : State, exec .draw s = .next t ∧ t.callerErr ≠ s.callerErr :=
  ⟨one, drawFrame one.served, exec_of_completes (.draw rfl (frame_whole one_runInv rfl).1 rfl), by decide⟩

/-- Two states that differ only in CALLER_ERR and SEQ_ADDR. -/
theorem witness_GhostStateIsUnread : ∃ s s' : State, s ≠ s' ∧ s.forget = s'.forget :=
  ⟨fresh, { fresh with callerErr := true, seqAddr := 3 },
    fun h => by simpa [fresh, State.reset] using congrArg State.callerErr h, rfl⟩

theorem witness_ParametersNeverChange : ∃ s t : State, step s = .next t := ⟨stalled, _, stalled_step⟩

/-- A command presented to an idle block, and one in progress. -/
theorem witness_StepRunsDecodedCommand :
    (∃ (s : State) (w : CmdWord) (i : Instr), s.rst = false ∧ decode w = .ok i ∧ s.inFlight = none ∧
      s.presented = [w]) ∧
    (∃ (s : State) (w : CmdWord) (i : Instr), s.rst = false ∧ decode w = .ok i ∧ s.inFlight = some w) :=
  ⟨⟨one.present (encode .draw), encode .draw, .draw, rfl, by decide, rfl, rfl⟩,
    ⟨stalled, encode .draw, .draw, rfl, by decide, rfl⟩⟩

theorem witness_IllegalWordFaults : ∃ (s : State) (w : CmdWord) (e : Illegal), s.rst = false ∧
    s.inFlight = none ∧ s.presented = [w] ∧ decode w = .error e :=
  ⟨one.present 0, 0, _, rfl, rfl, rfl, test_decode_refuses_zero⟩

/-- A step of an idle block, and one that leaves a command in progress. -/
theorem witness_OneResponsePerCommand :
    (∃ s t : State, s.rst = false ∧ step s = .next t ∧ s.inFlight = none ∧ s.presented = []) ∧
    (∃ s t : State, s.rst = false ∧ step s = .next t ∧ s.inFlight.isSome = true) ∧
    (∃ s t : State, s.rst = false ∧ step s = .next t ∧ s.presented ≠ []) :=
  ⟨⟨one, one, rfl, rfl, rfl, rfl⟩, ⟨stalled, _, rfl, stalled_step, rfl⟩,
    ⟨fresh.present (encode .draw), _, rfl, rfl, by decide⟩⟩

theorem witness_FetchWordRunsNext : ∃ (w : Nat) (i : Instr), decodeTableWord 96 w = some i :=
  ⟨0x4000_0000_0000_0000_0000_0000, .draw, by decide⟩

theorem witness_IdleStatePersists : ∃ s : State, s.rst = false ∧ s.inFlight = none ∧ s.presented = [] :=
  ⟨one, rfl, rfl, rfl⟩

/-- Two instances, one of which steps; the other is number 1. -/
theorem witness_InstancesDoNotInteract : ∃ (sys sys' : System) (k : Fin sys.length) (j : Nat),
    systemStep sys k = .next sys' ∧ j ≠ k.val ∧ j < sys.length :=
  ⟨[one, fresh], [one, fresh], ⟨0, by decide⟩, 1, rfl, by decide, by decide⟩

end Sys2Proof.Tests
end

/-! The statements of 00_scope.md: the command port (R8, R9), the beats of the serial ports (R9, R121, R126), the
response (R33), and the address width (R6). -/

namespace Sys2Proof.Machine

variable {s t : State}

/-! ### A frame's burst (R121) -/

theorem map_data_txBurst (bytes : List Byte) : (txBurst bytes).map TxBeat.data = bytes := by
  induction bytes using txBurst.induct with
  | case1 => rfl
  | case2 b => rfl
  | case3 b c bs ih => rw [txBurst, List.map_cons, ih]

@[simp] theorem length_txBurst (bytes : List Byte) : (txBurst bytes).length = bytes.length := by
  simpa using congrArg List.length (map_data_txBurst bytes)

/-- `tx_last` of beat k says whether k is the last. -/
theorem last_txBurst_getElem? (bytes : List Byte) (k : Nat) (hk : k < bytes.length) :
    (txBurst bytes)[k]?.map TxBeat.last = some (decide (k + 1 = bytes.length)) := by
  induction bytes using txBurst.induct generalizing k with
  | case1 => simp at hk
  | case2 b =>
    obtain rfl : k = 0 := by simpa using hk
    rfl
  | case3 b c bs ih =>
    cases k with
    | zero => simp [txBurst]
    | succ k =>
      rw [txBurst, List.getElem?_cons_succ, ih k (by simpa using hk)]
      simp

/-- Settles O40: the data and the `tx_last` of a burst, each by the burst's own recursion. -/
theorem txLastMarksTrailer : Obligations.TxLastMarksTrailer := fun bytes =>
  ⟨map_data_txBurst bytes, last_txBurst_getElem? bytes⟩

/-! ### The handshakes of a command (R91, R121, R126) -/

theorem length_serialBeats_configure (order : BitOrder) (clockKhz : Nat) :
    (Event.configure order clockKhz).serialBeats.length = 1 := rfl

theorem length_serialBeats_write (bytes : List Byte) : (Event.write bytes).serialBeats.length = bytes.length := by
  simp [Event.serialBeats, Event.cfgBeats, Event.txBeats]

/-- The frame that CONSTRUCT builds has L bytes (R93). -/
theorem length_frame_construct (n : Half) (s : State) : (construct n s).frame.length = bufferLength n.toNat :=
  length_bytesBelow fun a ha => (isSome_read_blankBuffer _ _ a).mpr ha

/-- A DRAW that passes its check and does not stop the machine found every byte of its frame. -/
theorem frame_length_of_exec_draw (checks : faultOf .draw s = .none) (h : exec .draw s = .next t) :
    s.frame.length = s.bufLen := by
  have built : s.constructed = true := by
    by_contra unbuilt
    simp [faultOf, unbuilt] at checks
  by_contra absent
  simp [exec, execDraw, built, absent] at h

/-- A command owes as many handshakes as the configure requests and the frame bytes it hands over. -/
theorem length_serialBeatsOf {i : Instr} (whole : i = .draw → s.frame.length = s.bufLen) :
    (serialBeatsOf i s).length = configuresOf i + frameBytesOf i s := by
  cases i with
  | construct autoDraw n =>
    cases autoDraw with
    | false => rfl
    | true =>
      rw [serialBeatsOf, List.length_append, length_serialBeats_configure, length_serialBeats_write,
        length_frame_construct]
      rfl
  | set => rfl
  | fill => rfl
  | draw =>
    rw [serialBeatsOf, length_serialBeats_write, whole rfl, configuresOf, frameBytesOf, Nat.zero_add]
  | configure => rfl

theorem newEvents_of_trace_append {events : List Event} (h : t.trace = s.trace ++ events) :
    newEvents s t = events := by
  rw [newEvents, h, List.drop_left]

/-- Diagnostics are no handshakes of the serial interface. -/
theorem serialBeats_diagEvents (red green blue : Half) :
    (diagEvents red green blue).flatMap Event.serialBeats = [] := by
  refine List.flatMap_eq_nil_iff.mpr fun e he => ?_
  obtain ⟨channel, value, rfl, _⟩ := of_mem_diagEvents _ _ _ he
  rfl

/-- The handshakes of a completed command's events are those it owes. -/
theorem Completes.serialBeats_newEvents {i : Instr} (h : Completes i s t) :
    (newEvents s t).flatMap Event.serialBeats = serialBeatsOf i s := by
  cases h with
  | construct => rw [newEvents_of_trace_append (events := []) (by simp)]; rfl
  | constructAndDraw =>
    rw [newEvents_of_trace_append (s := s) ((constructAndDraw_trace s.served _).trans (List.append_assoc ..))]
    simp only [List.singleton_append, List.flatMap_cons, List.flatMap_nil, List.append_nil]
    rfl
  | set => rw [newEvents_of_trace_append (writePixels_trace ..), serialBeats_diagEvents]; rfl
  | fill => rw [newEvents_of_trace_append (writePixels_trace ..), serialBeats_diagEvents]; rfl
  | draw => rw [newEvents_of_trace_append (s := s) (drawFrame_trace s.served), List.flatMap_singleton]; rfl
  | configure =>
    rw [newEvents_of_trace_append (s := s) (sendConfigure_trace s.served), List.flatMap_singleton]
    rfl

/-- The interface always accepts nothing more. -/
theorem accepts_zero (x : SerialInput) : x.accepts 0 = true := by
  rw [SerialInput.accepts]
  split <;> simp

/-- A command completes only where its transfers are accepted. -/
theorem Completes.serialDone {i : Instr} (h : Completes i s t) : serialDone i s = true := by
  cases h with
  | construct | set | fill =>
    simp [Machine.serialDone, configuresOf, frameBytesOf, accepts_zero]
  | constructAndDraw _ _ _ done => exact done
  | draw _ _ done => exact done
  | configure _ done => exact done

/-- A command that passes every check completes where its transfers are accepted. -/
theorem completes_of_serialDone {i : Instr} (checks : faultOf i s = .none) (done : serialDone i s = true)
    (h : exec i s = .next t) : Completes i s t := by
  rcases exec_cases h with ⟨bad, _⟩ | ⟨_, _, pending, _⟩ | ⟨_, completes⟩
  · exact absurd checks bad
  · simp [done] at pending
  · exact completes

/-- A command that passes every check is held where its transfers are not all accepted. -/
theorem held_of_not_serialDone {i : Instr} (checks : faultOf i s = .none) (pending : serialDone i s = false)
    (h : exec i s = .next t) : t = holdCommand (configuresOf i) s := by
  rcases exec_cases h with ⟨bad, _⟩ | ⟨_, _, _, held⟩ | ⟨_, completes⟩
  · exact absurd checks bad
  · exact held
  · simp [completes.serialDone] at pending

/-- A waiting step leaves the handshakes that its command owes (R122). -/
theorem serialBeatsOf_holdCommand (i : Instr) (configures : Nat) (s : State) :
    serialBeatsOf i (holdCommand configures s) = serialBeatsOf i s := by
  cases i with
  | construct autoDraw n => cases autoDraw <;> rfl
  | set | fill | draw | configure => rfl

/-- A held command offers the first of its handshakes not yet accepted (R122). -/
theorem offeredBeat_of_inFlight {i : Instr} {w : CmdWord} (busy : s.inFlight = some w) (legal : decode w = .ok i) :
    s.offeredBeat = (serialBeatsOf i s)[s.accepted]? := by
  simp only [State.offeredBeat, busy, legal, List.head?_drop]

/-- Settles O34, by what `exec` does where the transfers are accepted and where they are not. -/
theorem handshakesAreTheEvents : Obligations.HandshakesAreTheEvents := by
  intro i s t checks h
  refine ⟨fun done => (completes_of_serialDone checks done h).serialBeats_newEvents, fun pending => ?_⟩
  have whole : i = .draw → s.frame.length = s.bufLen := by
    rintro rfl
    exact frame_length_of_exec_draw checks h
  obtain rfl := held_of_not_serialDone checks pending h
  refine ⟨Nat.le_add_right .., ?_, fun w busy legal => ?_⟩
  · rw [length_serialBeatsOf whole]
    exact handshakes_pending pending
  · rw [offeredBeat_of_inFlight (s := holdCommand _ s) busy legal, serialBeatsOf_holdCommand]

/-! ### What a command does to the port and to the response (R9, R33, R51) -/

/-- A command that completes answers. -/
theorem Completes.answered {i : Instr} (h : Completes i s t) : ∃ diag, Answered .none diag t := by
  cases h with
  | construct => exact ⟨_, respond_answered ..⟩
  | constructAndDraw => exact ⟨_, respond_answered ..⟩
  | set => exact ⟨_, writePixels_answered ..⟩
  | fill => exact ⟨_, writePixels_answered ..⟩
  | draw => exact ⟨_, respond_answered ..⟩
  | configure => exact ⟨_, respond_answered ..⟩

theorem Completes.streams {i : Instr} (h : Completes i s t) : t.streams = s.streams := by
  cases h with
  | construct | constructAndDraw | draw | configure => rfl
  | set | fill => exact writePixels_streams ..

theorem writePixels_withStreams (lo count : Nat) (red green blue : Half) (s : State)
    (other : List (List CmdWord)) : writePixels lo count red green blue { s with streams := other } =
      { writePixels lo count red green blue s with streams := other } := rfl

/-- A command that completes does the same whatever is in the host's streams. -/
theorem Completes.withStreams {i : Instr} (h : Completes i s t) (other : List (List CmdWord)) :
    Completes i { s with streams := other } { t with streams := other } := by
  cases h with
  | construct fresh low high => exact .construct (s := { s with streams := other }) fresh low high
  | constructAndDraw fresh low high done =>
    exact .constructAndDraw (s := { s with streams := other }) fresh low high done
  | set built inside =>
    rw [← writePixels_withStreams]
    exact .set (s := { s with streams := other }) built inside
  | fill built first_eq last_eq inside₁ inside₂ =>
    rw [← writePixels_withStreams]
    exact .fill (s := { s with streams := other }) built first_eq last_eq inside₁ inside₂
  | draw built whole done => exact .draw (s := { s with streams := other }) built whole done
  | configure built done => exact .configure (s := { s with streams := other }) built done

theorem faultOf_withStreams (i : Instr) (s : State) (other : List (List CmdWord)) :
    faultOf i { s with streams := other } = faultOf i s := by
  cases i <;> rfl

theorem serialDone_withStreams (i : Instr) (s : State) (other : List (List CmdWord)) :
    serialDone i { s with streams := other } = serialDone i s := by
  cases i <;> rfl

theorem exec_streams {i : Instr} (h : exec i s = .next t) : t.streams = s.streams := by
  rcases exec_cases h with ⟨_, rfl⟩ | ⟨_, _, _, rfl⟩ | ⟨_, completes⟩
  · exact raiseFault_streams ..
  · exact holdCommand_streams ..
  · exact completes.streams

/-- A command does the same whatever is in the host's streams. -/
theorem exec_withStreams {i : Instr} (h : exec i s = .next t) (other : List (List CmdWord)) :
    exec i { s with streams := other } = .next { t with streams := other } := by
  have same := faultOf_withStreams i s other
  rcases exec_cases h with ⟨bad, rfl⟩ | ⟨checks, waits, pending, rfl⟩ | ⟨_, completes⟩
  · rw [exec_of_faultOf (same.trans_ne bad), same]
    rfl
  · refine exec_of_held (same.trans checks) waits ((serialDone_withStreams i s other).trans pending) ?_
    intro draws
    subst draws
    exact frame_length_of_exec_draw (s := s) checks h
  · exact exec_of_completes (completes.withStreams other)

/-- A command answers, or stays in progress with the response that stands. -/
theorem exec_answers_or_holds {i : Instr} (h : exec i s = .next t) :
    (∃ status diag, Answered status diag t) ∨ (t.inFlight = s.inFlight ∧ t.response = s.response) := by
  rcases exec_cases h with ⟨_, rfl⟩ | ⟨_, _, _, rfl⟩ | ⟨_, completes⟩
  · exact .inl ⟨_, _, raiseFault_answered ..⟩
  · exact .inr ⟨holdCommand_inFlight .., holdCommand_response ..⟩
  · exact .inl ⟨_, completes.answered⟩

/-! ### The same for a word -/

theorem runWord_of_legal {w : CmdWord} {i : Instr} (legal : decode w = .ok i) (s : State) :
    runWord w s = exec i s := by
  rw [runWord, legal]

theorem runWord_of_illegal {w : CmdWord} {e : Illegal} (illegal : decode w = .error e) (s : State) :
    runWord w s = .next (raiseFault .illegalCommand s) := by
  rw [runWord, illegal]

theorem runWord_streams {w : CmdWord} (h : runWord w s = .next t) : t.streams = s.streams := by
  cases decoded : decode w with
  | ok i => exact exec_streams (runWord_of_legal decoded s ▸ h)
  | error e =>
    rw [runWord_of_illegal decoded] at h
    cases h
    exact raiseFault_streams ..

/-- A word does the same whatever is in the host's streams. -/
theorem runWord_withStreams {w : CmdWord} (h : runWord w s = .next t) (other : List (List CmdWord)) :
    runWord w { s with streams := other } = .next { t with streams := other } := by
  cases decoded : decode w with
  | ok i =>
    rw [runWord_of_legal decoded] at h ⊢
    exact exec_withStreams h other
  | error e =>
    rw [runWord_of_illegal decoded] at h ⊢
    cases h
    rfl

/-- A word is answered, or stays in progress with the response that stands. -/
theorem runWord_answers_or_holds {w : CmdWord} (h : runWord w s = .next t) :
    (∃ status diag, Answered status diag t) ∨ (t.inFlight = s.inFlight ∧ t.response = s.response) := by
  cases decoded : decode w with
  | ok i => exact exec_answers_or_holds (runWord_of_legal decoded s ▸ h)
  | error e =>
    rw [runWord_of_illegal decoded] at h
    cases h
    exact .inl ⟨_, _, raiseFault_answered ..⟩

/-! ### The word a step runs (R8, R9) -/

/-- Outside reset a step is the run of the word in progress, or of the one word presented. -/
theorem step_of_runs {w : CmdWord} {r : State} (running : s.rst = false) (runs : Runs s w r) :
    step s = runWord w r := by
  cases runs with
  | resumed held => simp only [step, running, held, Bool.false_eq_true, if_false]
  | accepted free one => simp only [step, running, free, one, Bool.false_eq_true, if_false]

theorem Runs.response {w : CmdWord} {r : State} (runs : Runs s w r) : r.response = s.response := by
  cases runs <;> rfl

/-- A step runs a word only where one is in progress or presented. -/
theorem Runs.busy {w : CmdWord} {r : State} (runs : Runs s w r) :
    s.inFlight.isSome = true ∨ s.presented ≠ [] := by
  cases runs with
  | resumed held => exact .inl (by rw [held]; rfl)
  | accepted _ one => exact .inr (by simp [one])

/-- Settles O36: the step is the run of the word in progress, which takes nothing from the streams. -/
theorem busyPortTakesNoCommand : Obligations.BusyPortTakesNoCommand := by
  intro s t w running busy h
  rw [step_of_runs running (.resumed busy)] at h
  refine ⟨runWord_streams h, ?_, fun other => ?_⟩
  · rcases runWord_answers_or_holds h with ⟨_, _, answered⟩ | ⟨held, _⟩
    · exact .inr answered.ready
    · exact .inl (held.trans busy)
  · rw [step_of_runs (s := { s with streams := other }) running (.resumed busy)]
    exact runWord_withStreams h other

/-- Settles O50: the word a step runs is in progress in the state it is run in. -/
theorem stepRunsDecodedCommand : Obligations.StepRunsDecodedCommand := by
  intro s w i running legal
  refine ⟨fun free one => ?_, fun busy => ?_⟩
  · exact (step_of_runs running (.accepted free one)).trans (runWord_of_legal legal _)
  · exact (step_of_runs running (.resumed busy)).trans (runWord_of_legal legal _)

theorem ofNat_mod_wordSize (w : Nat) : BitVec.ofNat 96 (w % 2 ^ 96) = BitVec.ofNat 96 w :=
  BitVec.eq_of_toNat_eq (by simp only [BitVec.toNat_ofNat, Nat.mod_mod])

/-- A 96-bit table word is decoded as the command word it is. -/
theorem decode_of_decodeTableWord {w : Nat} {i : Instr} (h : decodeTableWord 96 w = some i) :
    decode (BitVec.ofNat 96 w) = .ok i := by
  rw [decodeTableWord, ofNat_mod_wordSize] at h
  cases decoded : decode (BitVec.ofNat 96 w) with
  | ok j => simpa [decoded, Except.toOption] using h
  | error e => simp [decoded, Except.toOption] at h

/-- Settles O53: the placed word is the only one presented. -/
theorem fetchWordRunsNext : Obligations.FetchWordRunsNext := by
  intro s w i h
  rw [State.withFetchWord, ofNat_mod_wordSize,
    step_of_runs (present_rst ..) (.accepted (present_inFlight ..) rfl),
    runWord_of_legal (decode_of_decodeTableWord h)]
  rfl

/-! ### One response per command (R9, R33) -/

/-- A step of an idle block gives no response. -/
theorem responseGiven_of_idle (free : s.inFlight = none) (silent : s.presented = []) (t : State) :
    responseGiven s t = none := by
  simp [responseGiven, State.cmdValid, free, silent]

/-- A step that runs a word gives the response of the state it reaches, if it ends the command. -/
theorem responseGiven_of_busy (running : s.rst = false)
    (busy : s.inFlight.isSome = true ∨ s.presented ≠ []) (t : State) :
    responseGiven s t = if t.inFlight = none then t.response else none := by
  have valid : s.inFlight.isSome = true ∨ s.cmdValid = true := by simpa [State.cmdValid] using busy
  simp [responseGiven, running, valid]

/-- Settles O52: a step outside reset idles, or runs one word, which is answered or stays in progress. -/
theorem oneResponsePerCommand : Obligations.OneResponsePerCommand := by
  intro s t running h
  refine ⟨fun free silent => responseGiven_of_idle free silent t, fun busy => ?_⟩
  rw [responseGiven_of_busy running busy]
  rcases step_cases h with ⟨reset, _⟩ | ⟨_, free, silent, _⟩ | ⟨_, w, r, runs, _⟩
  · simp [running] at reset
  · simp [free, silent] at busy
  · rw [step_of_runs running runs] at h
    rcases runWord_answers_or_holds h with ⟨_, _, answered⟩ | ⟨held, stands⟩
    · exact .inl ⟨answered.ready, _, (if_pos answered.ready).trans answered.response, answered.response⟩
    · have inProgress : t.inFlight = some w := held.trans runs.inFlight
      exact .inr ⟨by simp [inProgress], by simp [inProgress], stands.trans runs.response⟩

/-! ### Widths and flags (R6, R87) -/

/-- ADDR_W for the largest MAX_PIXELS (R6). -/
theorem addrWidth_of_maxPixels_65535 {c : Config} (h : c.maxPixels = 65535) : c.addrWidth = 21 := by
  rw [Config.addrWidth, h]
  decide

/-- Settles O30, by the laws of ADDR_W. -/
theorem addressWidthLeast : Obligations.AddressWidthLeast := by
  intro c wf
  have one_le : 1 ≤ c.maxPixels := by
    simp only [Config.wf, Bool.and_eq_true, decide_eq_true_eq] at wf
    exact wf.1
  exact ⟨Laws.addrWidth_enough c, Laws.addrWidth_least c one_le, Laws.addrWidth_le c wf,
    addrWidth_of_maxPixels_65535⟩

/-- Three flags in a row, read as a number. -/
theorem toNat_threeFlags (a b c : Bool) : (BitVec.ofBool a ++ BitVec.ofBool b ++ BitVec.ofBool c).toNat =
    (if a = true then 4 else 0) + (if b = true then 2 else 0) + (if c = true then 1 else 0) := by
  revert a b c
  decide

/-- Settles O13: `rsp_diag` is three flags in a row. -/
theorem rspDiagBits : Obligations.RspDiagBits := fun _ _ _ => toNat_threeFlags ..

end Sys2Proof.Machine

/-! The statements of 10_state.md: the invariant of every run (R30, R31), SEQ_ADDR (R22), construction (R23, R25),
STATUS and its flags (R24, R26, R28), CALLER_ERR (R27), and the reset values (R34). -/

namespace Sys2Proof.Machine

variable {s t r : State}

/-! ### What a word does to the state it runs in -/

/-- A word that reaches a next state raises a fault, or is held at the serial interface, or completes. -/
inductive RunsTo (r : State) : State → Prop where
  | faulted {cause : Cause} (known : cause ≠ .none) : RunsTo r (raiseFault cause r)
  | held {i : Instr} (checks : faultOf i r = .none) (pending : serialDone i r = false) :
      RunsTo r (holdCommand (configuresOf i) r)
  | completed {i : Instr} {t : State} (completes : Completes i r t) : RunsTo r t

theorem runsTo_of_exec {i : Instr} (h : exec i r = .next t) : RunsTo r t := by
  rcases exec_cases h with ⟨bad, rfl⟩ | ⟨checks, _, pending, rfl⟩ | ⟨_, completes⟩
  · exact .faulted bad
  · exact .held checks pending
  · exact .completed completes

/-- Outside reset a step idles, or runs one word. -/
theorem idle_or_runsTo_of_step (running : s.rst = false) (h : step s = .next t) :
    t = s ∨ ∃ w r, Runs s w r ∧ RunsTo r t := by
  rcases step_cases h with ⟨reset, _⟩ | ⟨_, _, _, idle⟩ | ⟨_, w, r, runs, word⟩
  · simp [running] at reset
  · exact .inl idle
  · refine .inr ⟨w, r, runs, ?_⟩
    rcases word with ⟨_, _, rfl⟩ | ⟨i, _, executed⟩
    · exact .faulted nofun
    · exact runsTo_of_exec executed

/-- Taking a word from the command port changes no register (R9). -/
theorem Runs.registersKept {w : CmdWord} (runs : Runs s w r) : RegistersKept s r := by
  cases runs <;> exact ⟨rfl, rfl, rfl, rfl, rfl, rfl, rfl, rfl⟩

theorem Runs.trace {w : CmdWord} (runs : Runs s w r) : r.trace = s.trace := by
  cases runs <;> rfl

/-! ### The invariant (R6, R22 to R31) -/

/-- A DRAW that passes its check finds a constructed block. -/
theorem constructed_of_draw_checks (checks : faultOf .draw s = .none) : s.constructed = true := by
  by_contra unbuilt
  simp [faultOf, unbuilt] at checks

/-- A CONSTRUCT that passes its checks has a frame size within MAX_PIXELS. -/
theorem frameSize_le_of_construct_checks {autoDraw : Bool} {n : Half}
    (checks : faultOf (.construct autoDraw n) s = .none) : n.toNat ≤ s.params.maxPixels := by
  rw [faultOf] at checks
  split at checks
  · cases checks
  · split at checks
    · cases checks
    · omega

/-- The frame a command hands over fits in ADDR_W bits (R6, R22). -/
theorem frameBytesOf_le_addressSpace {i : Instr} (hi : RunInv s) (checks : faultOf i s = .none) :
    frameBytesOf i s ≤ 2 ^ s.params.addrWidth := by
  cases i with
  | construct autoDraw n =>
    cases autoDraw with
    | false => exact Nat.zero_le _
    | true =>
      have size := frameSize_le_of_construct_checks checks
      have enough := Laws.addrWidth_enough s.params
      simp only [frameBytesOf, bufferLength, if_true] at enough ⊢
      omega
  | set | fill | configure => exact Nat.zero_le _
  | draw => exact bufLen_le_addressSpace hi (constructed_of_draw_checks checks)

theorem runInv_drawFrame (hi : RunInv s) (built : s.constructed = true) : RunInv (drawFrame s) :=
  runInv_respond _ _ (runInv_emitWrite built (frame_whole hi built) (runInv_noteCallerError _ hi))

theorem runInv_sendConfigure (hi : RunInv s) (built : s.constructed = true) : RunInv (sendConfigure s) :=
  runInv_respond _ _ (runInv_emitConfigure built (runInv_noteCallerError _ hi))

theorem runInv_constructAndDraw {n : Half} (hi : RunInv s) (fresh : s.constructed = false) (low : 1 ≤ n.toNat)
    (high : n.toNat ≤ s.params.maxPixels) : RunInv (constructAndDraw n s) := by
  have built := runInv_construct hi fresh low high
  exact runInv_respond _ _ (runInv_emitWrite rfl (frame_whole built rfl) (runInv_emitConfigure rfl built))

theorem Completes.runInv {i : Instr} (h : Completes i s t) (hi : RunInv s) : RunInv t := by
  cases h with
  | construct fresh low high => exact runInv_respond _ _ (runInv_construct hi fresh low high)
  | constructAndDraw fresh low high => exact runInv_constructAndDraw (runInv_served hi) fresh low high
  | set built inside => exact runInv_writePixels _ _ _ hi built inside
  | fill built _ _ inside₁ inside₂ => exact runInv_writePixels _ _ _ hi built (by omega)
  | draw built => exact runInv_drawFrame (runInv_served hi) built
  | configure built => exact runInv_sendConfigure (runInv_served hi) built

theorem RunsTo.runInv (h : RunsTo r t) (hi : RunInv r) (busy : r.inFlight ≠ none) : RunInv t := by
  cases h with
  | faulted known => exact runInv_raiseFault known hi
  | held checks pending =>
    exact runInv_holdCommand hi busy (frameBytesOf_le_addressSpace hi checks) (handshakes_pending pending)
  | completed completes => exact completes.runInv hi

theorem Runs.runInv {w : CmdWord} (runs : Runs s w r) (hi : RunInv s) : RunInv r := by
  cases runs with
  | resumed => exact hi
  | accepted => exact runInv_accept _ hi

/-- Settles O58: reset gives the invariant, and every operation that a word runs keeps it. -/
theorem stepKeepsInvariant : Obligations.StepKeepsInvariant := by
  intro s t hi h
  cases reset : s.rst with
  | true =>
    simp only [step, reset, if_true, Host.Outcome.next.injEq] at h
    exact h ▸ runInv_powerOn hi
  | false =>
    rcases idle_or_runsTo_of_step reset h with rfl | ⟨w, r, runs, runsTo⟩
    · exact hi
    · exact runsTo.runInv (runs.runInv hi) (by simp [runs.inFlight])

/-! ### SEQ_ADDR while a DRAW is held (R22) -/

/-- Settles O35: the count of accepted bytes is below L, and so fits SEQ_ADDR's 21 bits. -/
theorem heldDrawSeqAddr : Obligations.HeldDrawSeqAddr := by
  intro s t hi built pending h
  obtain rfl := held_of_not_serialDone (by simp [faultOf, built]) pending h
  have below : s.accepted + s.serial.granted < s.bufLen := by
    simpa [configuresOf, frameBytesOf] using handshakes_pending pending
  have fits : s.bufLen ≤ 2 ^ 21 := (bufLen_le_addressSpace hi built).trans
    (Nat.pow_le_pow_right (by omega) (Laws.addrWidth_le _ hi.params_ok))
  refine ⟨?_, below⟩
  simp only [configuresOf, holdCommand_seqAddr, holdCommand_accepted, Nat.zero_le, if_true, Nat.sub_zero]
  rw [BitVec.toNat_ofNat, Nat.mod_eq_of_lt (below.trans_le fits)]

/-! ### FAULT and CAUSE (R28, R147) -/

/-- A command that completes leaves FAULT and CAUSE as they were. -/
theorem Completes.fault_cause {i : Instr} (h : Completes i s t) : t.fault = s.fault ∧ t.cause = s.cause := by
  cases h with
  | construct | constructAndDraw | draw | configure => exact ⟨rfl, rfl⟩
  | set | fill => exact ⟨writePixels_fault .., writePixels_cause ..⟩

/-- A word leaves FAULT and CAUSE as they were, or raises the fault that it answers with. -/
theorem RunsTo.fault_cause (h : RunsTo r t) : (t.fault = r.fault ∧ t.cause = r.cause) ∨
    (t.fault = true ∧ t.response = some { status := t.cause, diag := 0 }) := by
  cases h with
  | faulted => exact .inr ⟨rfl, rfl⟩
  | held => exact .inl ⟨rfl, rfl⟩
  | completed completes => exact .inl completes.fault_cause

/-- Settles O43: a step outside reset keeps FAULT and CAUSE, or raises a fault. -/
theorem faultIsSticky : Obligations.FaultIsSticky := by
  intro s t running h
  rcases idle_or_runsTo_of_step running h with rfl | ⟨w, r, runs, runsTo⟩
  · exact ⟨id, absurd rfl⟩
  · have kept := runs.registersKept
    rcases runsTo.fault_cause with ⟨fault, cause⟩ | raised
    · exact ⟨(fault.trans kept.fault).trans, absurd (cause.trans kept.cause)⟩
    · exact ⟨fun _ => raised.1, fun _ => raised⟩

/-! ### CONSTRUCTED and FRAMESIZE (R23, R25) -/

theorem Completes.construction {i : Instr} (h : Completes i s t) (built : s.constructed = true) :
    t.constructed = true ∧ t.frameSize = s.frameSize := by
  cases h with
  | construct fresh | constructAndDraw fresh => simp [built] at fresh
  | set | fill => exact ⟨(writePixels_constructed ..).trans built, writePixels_frameSize ..⟩
  | draw | configure => exact ⟨built, rfl⟩

theorem RunsTo.construction (h : RunsTo r t) (built : r.constructed = true) :
    t.constructed = true ∧ t.frameSize = r.frameSize := by
  cases h with
  | faulted | held => exact ⟨built, rfl⟩
  | completed completes => exact completes.construction built

/-- Settles O45: the one command that writes them is refused by a constructed block. -/
theorem constructionIsPermanent : Obligations.ConstructionIsPermanent := by
  intro s t running built h
  rcases idle_or_runsTo_of_step running h with rfl | ⟨w, r, runs, runsTo⟩
  · exact ⟨built, rfl⟩
  · have kept := runs.registersKept
    obtain ⟨constructed, frameSize⟩ := runsTo.construction (kept.constructed.trans built)
    exact ⟨constructed, frameSize.trans kept.frameSize⟩

/-! ### The trace, CONFIGURED and DRAWN (R26, R29) -/

/-- The trace from s to t grows by `new`, and the two flags record the new events of their kind. -/
def RecordsEvents (s t : State) (new : List Event) : Prop :=
  t.trace = s.trace ++ new ∧ t.configured = (s.configured || new.any Event.isConfigure) ∧
    t.drawn = (s.drawn || new.any Event.isWrite)

theorem recordsEvents_nil (trace : t.trace = s.trace) (configured : t.configured = s.configured)
    (drawn : t.drawn = s.drawn) : RecordsEvents s t [] := by
  simp [RecordsEvents, trace, configured, drawn]

/-- A diagnostic is of no other kind. -/
theorem any_diagEvents {p : Event → Bool} (hp : ∀ channel value, p (.diag channel value) = false)
    (red green blue : Half) : (diagEvents red green blue).any p = false := by
  refine List.any_eq_false.mpr fun e he => ?_
  obtain ⟨channel, value, rfl, _⟩ := of_mem_diagEvents _ _ _ he
  simp [hp]

theorem recordsEvents_writePixels (lo count : Nat) (red green blue : Half) :
    RecordsEvents s (writePixels lo count red green blue s) (diagEvents red green blue) := by
  simp only [RecordsEvents, writePixels_trace, writePixels_configured, writePixels_drawn,
    any_diagEvents (p := Event.isConfigure) fun _ _ => rfl, any_diagEvents (p := Event.isWrite) fun _ _ => rfl,
    Bool.or_false, and_self]

theorem Completes.recordsEvents {i : Instr} (h : Completes i s t) : ∃ new, RecordsEvents s t new := by
  cases h with
  | construct => exact ⟨[], recordsEvents_nil rfl rfl rfl⟩
  | constructAndDraw =>
    exact ⟨[_, _], (constructAndDraw_trace ..).trans (List.append_assoc ..), (Bool.or_true _).symm,
      (Bool.or_true _).symm⟩
  | set | fill => exact ⟨_, recordsEvents_writePixels ..⟩
  | draw => exact ⟨[_], rfl, (Bool.or_false _).symm, (Bool.or_true _).symm⟩
  | configure => exact ⟨[_], rfl, (Bool.or_true _).symm, (Bool.or_false _).symm⟩

theorem RunsTo.recordsEvents (h : RunsTo r t) : ∃ new, RecordsEvents r t new := by
  cases h with
  | faulted | held => exact ⟨[], recordsEvents_nil rfl rfl rfl⟩
  | completed completes => exact completes.recordsEvents

/-- Settles O46: every word records its events in the trace and in the flags. -/
theorem flagsRecordEvents : Obligations.FlagsRecordEvents := by
  intro s t running h
  rcases idle_or_runsTo_of_step running h with rfl | ⟨w, r, runs, runsTo⟩
  · exact ⟨[], recordsEvents_nil rfl rfl rfl⟩
  · have kept := runs.registersKept
    obtain ⟨new, records⟩ := runsTo.recordsEvents
    rw [RecordsEvents, runs.trace, kept.configured, kept.drawn] at records
    exact ⟨new, records⟩

/-! ### CALLER_ERR (R27, R148) -/

/-- Whether a command that completes is a caller error. -/
def isCallerError (i : Instr) (s : State) : Bool :=
  match i with
  | .draw => s.drawIsCallerError
  | .configure => s.configureIsCallerError
  | .construct _ _ | .set _ _ _ _ | .fill _ _ _ _ _ _ _ => false

theorem Completes.callerErr {i : Instr} (h : Completes i s t) :
    t.callerErr = (s.callerErr || isCallerError i s) := by
  cases h with
  | construct | constructAndDraw => exact (Bool.or_false _).symm
  | set | fill => exact (writePixels_callerErr ..).trans (Bool.or_false _).symm
  | draw | configure => rfl

/-- The caller errors of R27. -/
theorem isCallerError_iff (i : Instr) (s : State) : isCallerError i s = true ↔
    (i = .draw ∧ s.configured = false ∧ s.params.extConfigured = false) ∨
      (i = .configure ∧ (s.configured = true ∨ s.drawn = true)) := by
  cases i <;> simp [isCallerError, State.drawIsCallerError, State.configureIsCallerError]

/-- A caller error is of a command that a constructed block alone completes. -/
theorem Completes.constructed_of_isCallerError {i : Instr} (h : Completes i s t)
    (isError : isCallerError i s = true) : s.constructed = true := by
  cases h with
  | construct | constructAndDraw => cases isError
  | set built | fill built | draw built | configure built => exact built

/-- Settles O47: only a command that completes sets the flag, and only where it is a caller error. -/
theorem callerErrOnlyByCallerErrors : Obligations.CallerErrOnlyByCallerErrors := by
  intro i s t h
  rcases exec_cases h with ⟨_, rfl⟩ | ⟨_, _, _, rfl⟩ | ⟨_, completes⟩
  · exact ⟨id, absurd rfl⟩
  · exact ⟨id, absurd rfl⟩
  · rw [completes.callerErr]
    refine ⟨fun already => by rw [already, Bool.true_or], fun changed => ?_⟩
    have isError : isCallerError i s = true := by
      by_contra noError
      simp [noError] at changed
    exact ⟨completes.constructed_of_isCallerError isError, (isCallerError_iff i s).mp isError⟩

/-! ### CALLER_ERR and SEQ_ADDR are not read (R22, R27) -/

/-- A transfer reads neither element where its completion reads neither. -/
theorem forget_transfer_forget (configures bytes : Nat) {complete : State → State}
    (unread : ∀ s, (complete s.forget).forget = (complete s).forget) (s : State) :
    (transfer configures bytes complete s.forget).forget = (transfer configures bytes complete s).forget := by
  simp only [transfer_eq, apply_ite State.forget]
  exact congrArg (ite _ · _) (unread s.served)

theorem forgetOutcome_next (t : State) : forgetOutcome (.next t) = .next t.forget := rfl

/-- No command's checks or completion read either element. -/
theorem forgetOutcome_exec_forget (i : Instr) (s : State) :
    forgetOutcome (exec i s.forget) = forgetOutcome (exec i s) := by
  cases i with
  | construct autoDraw n =>
    simp only [exec, execConstruct, forgetOutcome_next, apply_ite State.forget,
      forget_transfer_forget _ _ (complete := constructAndDraw n) fun _ => rfl]
    rfl
  | set | fill =>
    simp only [exec, execSet, execFill, forgetOutcome_next, apply_ite State.forget]
    rfl
  | draw =>
    simp only [exec, execDraw, forgetOutcome_next, apply_ite forgetOutcome,
      forget_transfer_forget _ _ (complete := drawFrame) fun _ => rfl]
    rfl
  | configure =>
    simp only [exec, execConfigure, forgetOutcome_next, apply_ite State.forget,
      forget_transfer_forget _ _ (complete := sendConfigure) fun _ => rfl]
    rfl

theorem forgetOutcome_runWord_forget (w : CmdWord) (s : State) :
    forgetOutcome (runWord w s.forget) = forgetOutcome (runWord w s) := by
  cases decoded : decode w with
  | ok i => simpa only [runWord_of_legal decoded] using forgetOutcome_exec_forget i s
  | error e =>
    simp only [runWord_of_illegal decoded]
    rfl

theorem forgetOutcome_step_forget (s : State) : forgetOutcome (step s.forget) = forgetOutcome (step s) := by
  have inFlight : s.forget.inFlight = s.inFlight := rfl
  have presented : s.forget.presented = s.presented := rfl
  have rst : s.forget.rst = s.rst := rfl
  simp only [step, rst, inFlight, presented]
  split
  · rfl
  · split
    · exact forgetOutcome_runWord_forget _ s
    · split
      · rfl
      · exact forgetOutcome_runWord_forget _ (s.accept _)
      · rfl

/-- Settles O48: the two states take the step of the one state in which both elements are forgotten. -/
theorem ghostStateIsUnread : Obligations.GhostStateIsUnread := by
  intro s s' same
  rw [← forgetOutcome_step_forget s, same, forgetOutcome_step_forget s']

/-! ### STATUS (R24, R140) -/

/-- Every bit of STATUS: the four flags from bit 0 on, then the cause code, whose bits past its four read 0. -/
theorem getLsbD_statusWord (s : State) (i : Nat) : s.statusWord.getLsbD i =
    match i with
    | 0 => s.constructed
    | 1 => s.configured
    | 2 => s.drawn
    | 3 => s.fault
    | k + 4 => s.cause.code.getLsbD k := by
  simp only [State.statusWord, BitVec.getLsbD_append, BitVec.getLsbD_ofBool, BitVec.getLsbD_zero]
  rcases i with _ | _ | _ | _ | k
  · simp
  · simp
  · simp
  · simp
  · simpa using BitVec.lt_of_getLsbD

theorem extractLsb'_statusWord_cause (s : State) : s.statusWord.extractLsb' 4 4 = s.cause.code := by
  refine BitVec.eq_of_getLsbD_eq fun i hi => ?_
  rw [BitVec.getLsbD_extractLsb', Nat.add_comm, getLsbD_statusWord]
  simp [hi]

theorem extractLsb'_statusWord_reserved (s : State) : s.statusWord.extractLsb' 8 8 = 0 := by
  refine BitVec.eq_of_getLsbD_eq fun i hi => ?_
  rw [BitVec.getLsbD_extractLsb', show 8 + i = 4 + i + 4 by omega, getLsbD_statusWord]
  simp [BitVec.getLsbD_of_ge]

theorem Cause.code_le (c : Cause) : c.code.toNat ≤ 6 := by
  cases c <;> decide

/-- The seven codes are distinct (R140). -/
theorem Cause.code_injective : Function.Injective Cause.code := by
  intro a b same
  cases a <;> cases b <;> simp [Cause.code] at same ⊢

theorem cause_eq_iff (c : Cause) : s.cause = c ↔ s.statusWord.extractLsb' 4 4 = c.code := by
  rw [extractLsb'_statusWord_cause, Cause.code_injective.eq_iff]

/-- Settles O44, by the bits of the word and the distinct codes of the causes. -/
theorem statusLayout : Obligations.StatusLayout := fun s =>
  ⟨getLsbD_statusWord s 0, getLsbD_statusWord s 1, getLsbD_statusWord s 2, getLsbD_statusWord s 3,
    extractLsb'_statusWord_cause s, extractLsb'_statusWord_reserved s, Cause.code_le s.cause,
    cause_eq_iff .none, cause_eq_iff .illegalCommand, cause_eq_iff .notConstructed,
    cause_eq_iff .alreadyConstructed, cause_eq_iff .badFrameSize, cause_eq_iff .indexRange, cause_eq_iff .fillRange,
    rfl, rfl, rfl, rfl, rfl, rfl, rfl⟩

/-! ### Reset (R34) -/

/-- Settles O15: each value is the one `State.reset` writes out. -/
theorem resetValues : Obligations.ResetValues :=
  ⟨rfl, rfl, fun _ => rfl, rfl, rfl, rfl, rfl, rfl, rfl, rfl, rfl, rfl, rfl, rfl⟩

theorem runInv_reset : RunInv State.reset where
  params_ok := Laws.config_board_wf
  canonical := List.Pairwise.nil
  unbuilt _ := ⟨rfl, rfl⟩
  size := nofun
  extent := nofun
  trailer := nofun
  slots := nofun
  idle_before _ := ⟨rfl, rfl⟩
  cause_known := by simp [State.reset]
  configured_iff := by simp [State.reset]
  drawn_iff := by simp [State.reset]
  configures_fixed := nofun
  frames_whole := nofun
  diags_due := nofun
  seq_addr := Nat.two_pow_pos _
  quiet _ := rfl

/-- A block that has sent nothing owes the serial interface nothing. -/
theorem serialContract_of_trace_nil (silent : s.trace = []) : SerialContract s where
  at_most_one _ := by simp [silent]
  none_after_frame _ := by simp [silent]
  configured_first _ _ := by simp [silent]

/-- Settles O57: nothing is built and the trace is empty. -/
theorem resetMeetsInvariant : Obligations.ResetMeetsInvariant :=
  ⟨runInv_reset, serialContract_of_trace_nil rfl⟩

end Sys2Proof.Machine

/-! The statements of 20_memory.md: the ROM's flat addresses (R41), the order of a frame on the wire (R45, R46), and
the repetition of a pixel write (R48). -/

namespace Sys2Proof.Machine

variable {s t : State}

/-! ### The ROM's flat addresses (R41) -/

theorem romByte_eq_bitByte (c : Config) (v : Byte) (i : Fin 8) : romByte c v i = bitByte c (v.getLsbD (7 - i)) := rfl

/-- Address a holds byte a mod 8 of entry a div 8. -/
theorem romAt_eq (c : Config) (a : BitVec 11) :
    romAt c a = romByte c (BitVec.ofNat 8 (a.toNat / 8)) ⟨a.toNat % 8, Nat.mod_lt _ (by decide)⟩ := by
  have entry : a.extractLsb' 3 8 = BitVec.ofNat 8 (a.toNat / 8) := by
    simp [BitVec.extractLsb', Nat.shiftRight_eq_div_pow]
  have byte : (a.extractLsb' 0 3).toFin = ⟨a.toNat % 8, Nat.mod_lt _ (by decide)⟩ := by
    ext; simp
  rw [romAt, entry, byte]

theorem romAt_ofNat (c : Config) (v : Byte) (i : Fin 8) :
    romAt c (BitVec.ofNat 11 (8 * v.toNat + i)) = romByte c v i := by
  have address : (BitVec.ofNat 11 (8 * v.toNat + i)).toNat = 8 * v.toNat + i := by
    rw [BitVec.toNat_ofNat]; omega
  have entry : (8 * v.toNat + i) / 8 = v.toNat := by omega
  have byte : (8 * v.toNat + i) % 8 = i := by omega
  simp [romAt_eq, address, entry, byte]

/-- Settles O10: an 11-bit address is its quotient and its remainder by 8. -/
theorem romFlatAddressing : Obligations.RomFlatAddressing := fun c =>
  ⟨romAt_ofNat c, fun a => by rw [wave_getElem? c _ _ (Nat.mod_lt _ (by decide)), romAt_eq, romByte_eq_bitByte]⟩

/-! ### The bits of a frame on the wire (R45, R172) -/

@[simp] theorem length_bitsMsbFirst (b : Byte) : (bitsMsbFirst b).length = 8 := by simp [bitsMsbFirst]

/-- Bit j on the line is bit 7 − j of the byte. -/
theorem bitsMsbFirst_getElem? (b : Byte) {j : Nat} (hj : j < 8) : (bitsMsbFirst b)[j]? = some (b.getLsbD (7 - j)) := by
  simp [bitsMsbFirst, hj]

theorem length_wireBits (bytes : List Byte) : (wireBits bytes).length = lineBitPeriods bytes := by
  simp [wireBits, lineBitPeriods, Nat.mul_comm]

theorem wireBits_append (bytes more : List Byte) : wireBits (bytes ++ more) = wireBits bytes ++ wireBits more :=
  List.flatMap_append

theorem wireBits_cons (b : Byte) (bytes : List Byte) : wireBits (b :: bytes) = bitsMsbFirst b ++ wireBits bytes :=
  List.flatMap_cons

/-- Byte k's bits stand at 8·k to 8·k + 7. -/
theorem wireBits_getElem? (bytes : List Byte) (k : Nat) {j : Nat} (hj : j < 8) :
    (wireBits bytes)[8 * k + j]? = bytes[k]?.map fun b => b.getLsbD (7 - j) := by
  induction bytes generalizing k with
  | nil => rfl
  | cons b bytes ih =>
    rw [wireBits_cons]
    cases k with
    | zero =>
      rw [List.getElem?_append_left (by simpa using hj), Nat.mul_zero, Nat.zero_add, bitsMsbFirst_getElem? b hj]
      rfl
    | succ k =>
      have past : 8 * (k + 1) + j - (bitsMsbFirst b).length = 8 * k + j := by rw [length_bitsMsbFirst]; omega
      rw [List.getElem?_append_right (by rw [length_bitsMsbFirst]; omega), past, ih, List.getElem?_cons_succ]

/-- Settles O41: by induction on the frame, each byte eight bits of the line. -/
theorem wireBitOrder : Obligations.WireBitOrder := fun bytes =>
  ⟨length_wireBits bytes, fun k _ _ hj => wireBits_getElem? bytes k hj⟩

/-! ### The pixels of a frame on the wire (R46) -/

/-- The bytes below 24·n are those of the slots 0 to n − 1, slot by slot (R43). -/
theorem bytesBelow_eq_flatMap_slot (m : Memory) (n : Nat) : m.bytesBelow (24 * n) = (List.range n).flatMap m.slot := by
  induction n with
  | zero => rfl
  | succ n ih =>
    rw [List.range_succ, List.flatMap_append, ← ih, List.flatMap_singleton, Memory.bytesBelow, Nat.mul_succ,
      List.range_add, List.filterMap_append, List.filterMap_map]
    rfl

/-- A constructed block's frame is its slots, then the trailer (R31, R42). -/
theorem frame_eq_slots_append_trailer (hi : RunInv s) (built : s.constructed = true) :
    s.frame = (List.range s.frameSize.toNat).flatMap s.buf.slot ++ [0x00] := by
  rw [← bytesBelow_eq_flatMap_slot, State.frame, State.bufLen, bufferLength, Memory.bytesBelow, List.range_succ,
    List.filterMap_append, Memory.bytesBelow]
  simp [hi.trailer built]

/-- The waveforms of a slot are the waveform bytes of its LED-protocol bits (R80). -/
theorem waves_eq_map_ledBits (c : Config) (green red blue : Byte) :
    wave c green ++ wave c red ++ wave c blue = (ledBits green red blue).map (bitByte c) := by
  simp only [wave_eq_map, ledBits, List.map_append]

/-- The waveform bytes of each pixel's LED-protocol bits, pixel 0 first (R46). -/
def pixelBytes (c : Config) (pixels : List (Byte × Byte × Byte)) : List Byte :=
  pixels.flatMap fun x => (ledBits x.1 x.2.1 x.2.2).map (bitByte c)

theorem wireBits_pixelBytes (c : Config) (pixels : List (Byte × Byte × Byte)) :
    wireBits (pixelBytes c pixels) =
      pixels.flatMap fun x => (ledBits x.1 x.2.1 x.2.2).flatMap fun bit => bitsMsbFirst (bitByte c bit) := by
  simp only [wireBits, pixelBytes, List.flatMap_assoc, List.flatMap_map]

theorem wireBits_trailer : wireBits [0x00] = List.replicate 8 false := by decide

/-- The slots of a constructed block hold the colors of some list of pixels, green, red, blue (R31). -/
theorem exists_pixels_of_slots (hi : RunInv s) (built : s.constructed = true) :
    ∃ color : Nat → Byte × Byte × Byte, ∀ p < s.frameSize.toNat, s.buf.slot p =
      wave s.params (color p).1 ++ wave s.params (color p).2.1 ++ wave s.params (color p).2.2 := by
  choose! green red blue slots using hi.slots built
  exact ⟨fun p => (green p, red p, blue p), slots⟩

/-- Settles O14: the frame is the slots and the trailer, and each slot the waveform bytes of its pixel's bits. -/
theorem frameWireOrder : Obligations.FrameWireOrder := by
  intro s hi built
  obtain ⟨color, slots⟩ := exists_pixels_of_slots hi built
  have frame : s.frame = pixelBytes s.params ((List.range s.frameSize.toNat).map color) ++ [0x00] := by
    rw [frame_eq_slots_append_trailer hi built, pixelBytes, List.flatMap_map]
    congr 1
    refine List.flatMap_congr fun p hp => ?_
    rw [slots p (List.mem_range.mp hp), waves_eq_map_ledBits]
  refine ⟨(List.range s.frameSize.toNat).map color, by simp, fun p hp => ?_, frame, ?_⟩
  · exact ⟨_, _, _, by simp [hp], slots p hp⟩
  · rw [frame, wireBits_append, wireBits_pixelBytes, wireBits_trailer]

/-! ### A pixel write repeated (R48) -/

/-- The commands that write pixels: SET and FILL. -/
def writesPixels : Instr → Bool
  | .construct _ _ => false
  | .set _ _ _ _ => true
  | .fill _ _ _ _ _ _ _ => true
  | .draw => false
  | .configure => false

theorem writesPixels_iff (i : Instr) : writesPixels i = true ↔
    (∃ index red green blue : Half, i = .set index red green blue) ∨
    (∃ (hasStart hasEnd : Bool) (start stop red green blue : Half),
      i = .fill hasStart hasEnd start stop red green blue) := by
  cases i <;> simp [writesPixels]

theorem waitsOnSerial_of_writesPixels {i : Instr} (pixel : writesPixels i = true) : waitsOnSerial i = false := by
  cases i <;> simp_all [writesPixels, waitsOnSerial]

/-- A fault leaves what the checks look at. -/
@[simp] theorem faultOf_raiseFault (i : Instr) (cause : Cause) (s : State) :
    faultOf i (raiseFault cause s) = faultOf i s := by
  cases i <;> rfl

/-- A pixel write that completes writes slots, and does the same again in the state it leaves: its checks pass there,
and its range is the same. -/
theorem Completes.writePixels_again {i : Instr} (pixel : writesPixels i = true) (h : Completes i s t) :
    ∃ (lo count : Nat) (red green blue : Half), t = writePixels lo count red green blue s ∧
      Completes i t (writePixels lo count red green blue t) := by
  cases h with
  | construct _ _ _ => cases pixel
  | constructAndDraw _ _ _ _ => cases pixel
  | @set index red green blue _ built inside =>
    exact ⟨index.toNat, 1, red, green, blue, rfl, .set (by simpa using built) (by simpa using inside)⟩
  | fill built first_eq last_eq inside₁ inside₂ =>
    exact ⟨_, _, _, _, _, rfl, .fill built first_eq last_eq inside₁ inside₂⟩
  | draw _ _ _ => cases pixel
  | configure _ _ => cases pixel

/-- The same color written twice to the same slots leaves every byte as the first write did. -/
theorem writePixels_writePixels_bufferKept (canonical : s.buf.wf) (lo count : Nat) (red green blue : Half) :
    BufferKept (writePixels lo count red green blue s)
      (writePixels lo count red green blue (writePixels lo count red green blue s)) := by
  intro a
  have again := read_fillSlots _ (writePixels_wf s canonical lo count red green blue) lo count
    (block s.params red green blue) (length_block ..) a
  rw [writePixels_buf, writePixels_params, again, writePixels_buf,
    read_fillSlots _ canonical _ _ _ (length_block ..)]
  split <;> rfl

/-- Settles O27: a fault is raised again and a completed write repeated, for neither changes what the checks and the
range look at. -/
theorem pixelWritesIdempotent : Obligations.PixelWritesIdempotent := by
  intro i s t u canonical pixel first second
  rw [← writesPixels_iff] at pixel
  rcases exec_cases first with ⟨bad, rfl⟩ | ⟨_, waits, _⟩ | ⟨_, completes⟩
  · have refaulted := exec_of_faultOf (s := raiseFault (faultOf i s) s) (by rwa [faultOf_raiseFault])
    obtain rfl : _ = u := Host.Outcome.next.inj (refaulted.symm.trans second)
    exact ⟨fun _ => rfl, [], by simp⟩
  · simp [waitsOnSerial_of_writesPixels pixel] at waits
  · obtain ⟨lo, count, red, green, blue, rfl, again⟩ := completes.writePixels_again pixel
    obtain rfl : _ = u := Host.Outcome.next.inj ((exec_of_completes again).symm.trans second)
    exact ⟨writePixels_writePixels_bufferKept canonical lo count red green blue, diagEvents red green blue, rfl, rfl⟩

end Sys2Proof.Machine

/-! The statements of 30_encoding.md: the decoder against the encoder and the opcode table (R60 to R65, R69), the
assembler's operands (R67), CLEAR (R68), and an illegal word at the command port (R65, R142). -/

namespace Sys2Proof.Machine

variable {s : State}

/-! ### Decoding and encoding (R65, R69) -/

theorem wf_fill_iff {hasStart hasEnd : Bool} {start stop red green blue : Half} :
    (Instr.fill hasStart hasEnd start stop red green blue).wf = true ↔
      (hasStart = false → start = 0) ∧ (hasEnd = false → stop = 0) := by
  cases hasStart <;> cases hasEnd <;> simp [Instr.wf]

theorem ofBool_eq_zero {b : Bool} : BitVec.ofBool b = 0#1 ↔ b = false := by
  cases b <;> decide

/-- The word of a well-formed command meets the constraints of its row, and its fields are the operands. -/
theorem decode_encode {i : Instr} (wf : i.wf = true) : decode (encode i) = .ok i := by
  rw [decode_eq_ok]
  cases i with
  | construct autoDraw n => simp [encode, Instr.opcode]
  | set index red green blue => simp [encode, Instr.opcode]
  | fill hasStart hasEnd start stop red green blue =>
    obtain ⟨noStart, noEnd⟩ := wf_fill_iff.mp wf
    simpa [encode, Instr.opcode, ofBool_eq_zero] using And.intro noStart noEnd
  | draw => simp [encode, Instr.opcode]
  | configure => simp [encode, Instr.opcode]

/-- Settles O1: the decoder reads the fields that the encoder packed. -/
theorem decodeOfEncode : Obligations.DecodeOfEncode := fun _ => decode_encode

/-- Settles O2: a word is the pack of its fields, and those its row names zero are zero. -/
theorem encodeOfDecode : Obligations.EncodeOfDecode := by
  intro w i legal
  obtain ⟨rsv, row⟩ := (decode_eq_ok w i).mp legal
  have fields := packWord_fields w rsv
  rcases row with ⟨op, f0, b, ⟨cr, cg, cb⟩, rfl⟩ | ⟨op, f1, f0, b, rfl⟩ | ⟨op, a, b, rfl⟩ |
    ⟨op, f1, f0, a, b, ⟨cr, cg, cb⟩, rfl⟩ | ⟨op, f1, f0, a, b, ⟨cr, cg, cb⟩, rfl⟩
  · rw [op, f0, b, cr, cg, cb] at fields
    exact ⟨rfl, fields⟩
  · rw [op, f1, f0, b] at fields
    exact ⟨rfl, fields⟩
  · rw [op] at fields
    exact ⟨wf_fill_iff.mpr ⟨fun h => a (flagOf_eq_false.mp h), fun h => b (flagOf_eq_false.mp h)⟩, fields⟩
  · rw [op, f1, f0, a, b, cr, cg, cb] at fields
    exact ⟨rfl, fields⟩
  · rw [op, f1, f0, a, b, cr, cg, cb] at fields
    exact ⟨rfl, fields⟩

/-- Settles O3, by the sum of a packed word's fields. -/
theorem encodingIsFieldSum : Obligations.EncodingIsFieldSum := by
  refine ⟨fun autoDraw n => ?_, fun index red green blue => ?_, fun hasStart hasEnd start stop red green blue => ?_,
    by decide, by decide, by decide, by decide⟩
  · simp [encode, Instr.opcode, toNat_packWord]
  · rw [toInt_emod, toInt_emod, toInt_emod]
    simp [encode, Instr.opcode, toNat_packWord]
  · rw [toInt_emod, toInt_emod, toInt_emod]
    simp [encode, Instr.opcode, toNat_packWord]

/-- Settles O6, by running the decoder on each word. -/
theorem decodeSampleWords : Obligations.DecodeSampleWords :=
  ⟨by decide, by decide, by decide, by decide, by decide, by decide, by decide, by decide⟩

/-! ### The rows of the opcode table (R64) -/

/-- A word matches a row under its mask when each of its nine fields does (R60). -/
theorem and_eq_iff_fields (w mask row : CmdWord) : w &&& mask = row ↔
    fieldOp w &&& mask.extractLsb' 92 4 = row.extractLsb' 92 4 ∧
    fieldF1 w &&& mask.extractLsb' 91 1 = row.extractLsb' 91 1 ∧
    fieldF0 w &&& mask.extractLsb' 90 1 = row.extractLsb' 90 1 ∧
    fieldRsv w &&& mask.extractLsb' 80 10 = row.extractLsb' 80 10 ∧
    fieldA w &&& mask.extractLsb' 64 16 = row.extractLsb' 64 16 ∧
    fieldB w &&& mask.extractLsb' 48 16 = row.extractLsb' 48 16 ∧
    fieldCR w &&& mask.extractLsb' 32 16 = row.extractLsb' 32 16 ∧
    fieldCG w &&& mask.extractLsb' 16 16 = row.extractLsb' 16 16 ∧
    fieldCB w &&& mask.extractLsb' 0 16 = row.extractLsb' 0 16 := by
  rw [word_eq_iff]
  simp only [fieldOp, fieldF1, fieldF0, fieldRsv, fieldA, fieldB, fieldCR, fieldCG, fieldCB, BitVec.extractLsb'_and]

/-- A field that the mask covers whole is compared whole. -/
theorem and_eq_self_of_allOnes {n : Nat} {x mask : BitVec n} (whole : mask = BitVec.allOnes n) : x &&& mask = x := by
  rw [whole, BitVec.and_allOnes]

theorem matches_construct_row (w : CmdWord) :
    w &&& 0xF7FF0000FFFFFFFFFFFFFFFF#96 = 0x100000000000000000000000#96 ↔ fieldRsv w = 0 ∧ fieldOp w = 1 ∧
      fieldF0 w = 0 ∧ fieldB w = 0 ∧ fieldCR w = 0 ∧ fieldCG w = 0 ∧ fieldCB w = 0 := by
  rw [and_eq_iff_fields]
  simp (disch := decide) [and_eq_self_of_allOnes, and_left_comm]

theorem matches_set_row (w : CmdWord) :
    w &&& 0xFFFF0000FFFF000000000000#96 = 0x200000000000000000000000#96 ↔ fieldRsv w = 0 ∧ fieldOp w = 2 ∧
      fieldF1 w = 0 ∧ fieldF0 w = 0 ∧ fieldB w = 0 := by
  rw [and_eq_iff_fields]
  simp (disch := decide) [and_eq_self_of_allOnes, and_left_comm]

theorem matches_fill_row (w : CmdWord) :
    w &&& 0xF3FF00000000000000000000#96 = 0x300000000000000000000000#96 ↔ fieldRsv w = 0 ∧ fieldOp w = 3 := by
  rw [and_eq_iff_fields]
  simp (disch := decide) [and_eq_self_of_allOnes, and_comm]

theorem getLsbD_eq_false_iff (w : CmdWord) (k : Nat) : w.getLsbD k = false ↔ w.extractLsb' k 1 = 0 := by
  simp [BitVec.eq_of_getLsbD_eq_iff]

theorem decode_construct_iff (w : CmdWord) : (∃ autoDraw n, decode w = .ok (.construct autoDraw n)) ↔
    fieldRsv w = 0 ∧ fieldOp w = 1 ∧ fieldF0 w = 0 ∧ fieldB w = 0 ∧ fieldCR w = 0 ∧ fieldCG w = 0 ∧
      fieldCB w = 0 := by
  simp [decode_eq_ok]

theorem decode_set_iff (w : CmdWord) : (∃ index red green blue, decode w = .ok (.set index red green blue)) ↔
    fieldRsv w = 0 ∧ fieldOp w = 2 ∧ fieldF1 w = 0 ∧ fieldF0 w = 0 ∧ fieldB w = 0 := by
  simp [decode_eq_ok]

theorem decode_fill_iff (w : CmdWord) : (∃ hasStart hasEnd start stop red green blue,
      decode w = .ok (.fill hasStart hasEnd start stop red green blue)) ↔
    fieldRsv w = 0 ∧ fieldOp w = 3 ∧ (fieldF1 w = 0 → fieldA w = 0) ∧ (fieldF0 w = 0 → fieldB w = 0) := by
  simp [decode_eq_ok]

/-- A word stands for a well-formed command exactly where it is that command's encoding. -/
theorem decode_eq_ok_iff_eq_encode {i : Instr} (wf : i.wf = true) (w : CmdWord) :
    decode w = .ok i ↔ w = encode i :=
  ⟨fun legal => (encodeOfDecode w i legal).2.symm, fun eq => eq ▸ decode_encode wf⟩

theorem encode_draw : encode .draw = 0x400000000000000000000000#96 := by decide

theorem encode_configure : encode .configure = 0x500000000000000000000000#96 := by decide

/-- Settles O4: under its mask a row asks for the fields that its decoder asks for. -/
theorem decodeMatchesOpcodeTable : Obligations.DecodeMatchesOpcodeTable := by
  intro w
  refine ⟨?_, ?_, ?_, ?_, ?_⟩
  · rw [matches_construct_row, decode_construct_iff]
  · rw [matches_set_row, decode_set_iff]
  · rw [matches_fill_row, decode_fill_iff, getLsbD_eq_false_iff, getLsbD_eq_false_iff, and_assoc]
    rfl
  · rw [← encode_draw, decode_eq_ok_iff_eq_encode rfl]
  · rw [← encode_configure, decode_eq_ok_iff_eq_encode rfl]

/-! ### The illegal words (R63, R64, R65) -/

theorem decode_error_iff (w : CmdWord) : (∃ e, decode w = .error e) ↔ ¬ ∃ i, decode w = .ok i := by
  cases decode w <;> simp

/-- The low 48 bits of a word are its three channel fields (R60). -/
theorem channels_eq_append (w : CmdWord) : w.extractLsb' 0 48 = fieldCR w ++ (fieldCG w ++ fieldCB w) := by
  have low : fieldCG w ++ fieldCB w = w.extractLsb' 0 32 := BitVec.extractLsb'_append_extractLsb'_eq_extractLsb' rfl
  rw [low]
  exact (BitVec.extractLsb'_append_extractLsb'_eq_extractLsb' (x := w) (start₁ := 0) (len₁ := 32) rfl).symm

theorem channels_eq_zero_iff (w : CmdWord) :
    w.extractLsb' 0 48 = 0 ↔ fieldCR w = 0 ∧ fieldCG w = 0 ∧ fieldCB w = 0 := by
  rw [channels_eq_append]
  simp only [← BitVec.toNat_inj, toNat_append_add, BitVec.ofNat_eq_ofNat, BitVec.toNat_ofNat, Nat.zero_mod]
  omega

/-- Where a word is legal, by the number of its OP. -/
theorem decode_ok_iff (w : CmdWord) : (∃ i, decode w = .ok i) ↔ fieldRsv w = 0 ∧
    (((fieldOp w).toNat = 1 ∧ fieldF0 w = 0 ∧ fieldB w = 0 ∧ w.extractLsb' 0 48 = 0) ∨
      ((fieldOp w).toNat = 2 ∧ fieldF1 w = 0 ∧ fieldF0 w = 0 ∧ fieldB w = 0) ∨
      ((fieldOp w).toNat = 3 ∧ (fieldF1 w = 0 → fieldA w = 0) ∧ (fieldF0 w = 0 → fieldB w = 0)) ∨
      (((fieldOp w).toNat = 4 ∨ (fieldOp w).toNat = 5) ∧ fieldF1 w = 0 ∧ fieldF0 w = 0 ∧ fieldA w = 0 ∧
        fieldB w = 0 ∧ w.extractLsb' 0 48 = 0)) := by
  simp only [decode_eq_ok, exists_and_left, exists_or, exists_eq, and_true, channels_eq_zero_iff, or_and_right,
    ← BitVec.toNat_inj (x := fieldOp w)]
  rfl

/-- Settles O5: the negation of where a word is legal, OP by OP. -/
theorem illegalWordsAreReserved : Obligations.IllegalWordsAreReserved := by
  intro w
  rw [decode_error_iff, decode_ok_iff]
  simp only [fieldOp, fieldF1, fieldF0, fieldRsv, fieldA, fieldB]
  generalize (w.extractLsb' 92 4).toNat = op
  have ops : op = 0 ∨ op = 1 ∨ op = 2 ∨ op = 3 ∨ op = 4 ∨ op = 5 ∨ 6 ≤ op := by omega
  rcases ops with rfl | rfl | rfl | rfl | rfl | rfl | reserved
  · simp
  · simp [-not_and, not_and_or]
  · simp [-not_and, not_and_or]
  · simp [-not_and, not_and_or]
  · simp [-not_and, not_and_or]
  · simp [-not_and, not_and_or]
  · simp only [reserved, true_or, or_true, iff_true]
    omega

/-! ### The assembler (R67, R68) -/

theorem asmIndex_eq_some_iff {x : Int} {v : Half} :
    asmIndex x = some v ↔ (-32768 ≤ x ∧ x ≤ 65535) ∧ BitVec.ofInt 16 x = v := by
  simp only [asmIndex, Option.ite_none_right_eq_some, Option.some.injEq]

theorem asmChannel_eq_some_iff {x : Int} {v : Half} :
    asmChannel x = some v ↔ (-32768 ≤ x ∧ x ≤ 32767) ∧ BitVec.ofInt 16 x = v := by
  simp only [asmChannel, Option.ite_none_right_eq_some, Option.some.injEq]

/-- What the assembler takes a SET for: each operand on its own. -/
theorem assemble_set_eq_some_iff {i r g b : Int} {c : Instr} : assemble (.set i r g b) = some c ↔
    ((-32768 ≤ i ∧ i ≤ 65535) ∧ (-32768 ≤ r ∧ r ≤ 32767) ∧ (-32768 ≤ g ∧ g ≤ 32767) ∧ (-32768 ≤ b ∧ b ≤ 32767)) ∧
      c = .set (BitVec.ofInt 16 i) (BitVec.ofInt 16 r) (BitVec.ofInt 16 g) (BitVec.ofInt 16 b) := by
  simp only [assemble, Option.bind_eq_bind, Option.pure_def, Option.bind_eq_some_iff, asmIndex_eq_some_iff,
    asmChannel_eq_some_iff, Option.some.injEq]
  constructor
  · rintro ⟨_, ⟨index, rfl⟩, _, ⟨red, rfl⟩, _, ⟨green, rfl⟩, _, ⟨blue, rfl⟩, rfl⟩
    exact ⟨⟨index, red, green, blue⟩, rfl⟩
  · rintro ⟨⟨index, red, green, blue⟩, rfl⟩
    exact ⟨_, ⟨index, rfl⟩, _, ⟨red, rfl⟩, _, ⟨green, rfl⟩, _, ⟨blue, rfl⟩, rfl⟩

/-- A channel operand in range is read back signed (R62). -/
theorem toInt_ofInt_of_channel {x : Int} (range : -32768 ≤ x ∧ x ≤ 32767) : (BitVec.ofInt 16 x).toInt = x :=
  BitVec.toInt_ofInt_eq_self (by decide) (by omega) (by omega)

/-- An index operand is encoded modulo 2^16 (R67). -/
theorem toNat_ofInt_half (x : Int) : ((BitVec.ofInt 16 x).toNat : Int) = x % 65536 := by
  rw [BitVec.toNat_ofInt]
  omega

/-- Settles O7, by what the assembler takes a SET for. -/
theorem assemblerOperandRanges : Obligations.AssemblerOperandRanges := by
  intro i r g b
  refine ⟨fun ranges => ?_, fun outside => ?_⟩
  · have taken := assemble_set_eq_some_iff.mpr ⟨ranges, rfl⟩
    obtain ⟨_, red, green, blue⟩ := ranges
    exact ⟨_, _, _, _, taken, toNat_ofInt_half i, toInt_ofInt_of_channel red, toInt_ofInt_of_channel green,
      toInt_ofInt_of_channel blue⟩
  · exact Option.eq_none_iff_forall_ne_some.mpr fun c taken => outside (assemble_set_eq_some_iff.mp taken).1

/-- Every channel of black is in range, so no diagnostic is due (R85, R86). -/
theorem diagEvents_black : diagEvents 0 0 0 = [] := by decide

theorem block_black_eq_waves (c : Config) : block c 0 0 0 = wave c 0 ++ wave c 0 ++ wave c 0 := rfl

/-- A FILL without start and end writes every slot of a constructed block (R103). -/
theorem exec_fill_all (hi : RunInv s) (built : s.constructed = true) (red green blue : Half) :
    exec (.fill false false 0 0 red green blue) s = .next (writePixels 0 s.frameSize.toNat red green blue s) := by
  obtain ⟨nonempty, _⟩ := hi.size built
  have done : Completes (.fill false false 0 0 red green blue) s _ :=
    .fill (first := 0) (last := s.frameSize.toNat - 1) built rfl rfl (by omega) (by omega)
  rw [exec_of_completes done]
  congr 2; omega

/-- Settles O8: CLEAR is the FILL of black over every slot. -/
theorem clearBlacksEveryPixel : Obligations.ClearBlacksEveryPixel := by
  refine ⟨rfl, fun i s clear hi built => ?_⟩
  obtain rfl : _ = i := Option.some.inj clear
  refine ⟨_, exec_fill_all hi built 0 0 0, ?_, fun p hp => ?_⟩
  · rw [writePixels_trace, diagEvents_black, List.append_nil]
  · rw [writePixels_buf, slot_fillSlots _ hi.canonical _ _ _ (length_block ..), if_pos (by omega),
      block_black_eq_waves]

/-! ### An illegal word at the command port (R65, R142) -/

/-- Settles O51: the step takes the word from its stream and raises the fault. -/
theorem illegalWordFaults : Obligations.IllegalWordFaults := by
  intro s w e running free one illegal
  have faults := (step_of_runs running (.accepted free one)).trans (runWord_of_illegal illegal _)
  exact ⟨_, faults, rfl, rfl, raiseFault_answered .., rfl, rfl, rfl, rfl, rfl, rfl, rfl, rfl, rfl, rfl, rfl⟩

end Sys2Proof.Machine

/-! The statements of 40_waveform_table.md: the bytes of a waveform (R81), coercion (R85), the ROM-free expander (R89),
and a ROM that no step changes (R82). -/

namespace Sys2Proof.Machine

variable {s t r : State}

/-! ### A block byte by byte (R88, R89) -/

/-- Channel q of a block's colors, in the order green, red, blue (R88). -/
theorem ite_channel_eq_getD {α : Type} (green red blue d : α) {q : Nat} (hq : q < 3) :
    (if q = 0 then green else if q = 1 then red else blue) = [green, red, blue].getD q d := by
  match q, hq with
  | 0, _ => rfl
  | 1, _ => rfl
  | 2, _ => rfl

/-- The direct form's multiplexer: byte k is chosen by bit 7 − (k mod 8) of channel k div 8 (R89). -/
theorem blockByteDirect_eq_bitByte (c : Config) (red green blue : Half) {k : Nat} (hk : k < 24) :
    blockByteDirect c red green blue k =
      bitByte c (([(coerce green).1, (coerce red).1, (coerce blue).1].getD (k / 8) 0).getLsbD (7 - k % 8)) := by
  rw [← ite_channel_eq_getD _ _ _ _ (by omega : k / 8 < 3)]
  rfl

/-- Byte i of the q-th of three waveforms in a row. -/
theorem three_waves_getElem? (c : Config) (green red blue : Byte) {q i : Nat} (hq : q < 3) (hi : i < 8) :
    (wave c green ++ wave c red ++ wave c blue)[8 * q + i]? =
      some (bitByte c (([green, red, blue].getD q 0).getLsbD (7 - i))) := by
  match q, hq with
  | 0, _ =>
    rw [List.append_assoc, List.getElem?_append_left (by simpa using hi), Nat.zero_add]
    exact wave_getElem? c green i hi
  | 1, _ =>
    rw [List.append_assoc, List.getElem?_append_right (by simp), List.getElem?_append_left (by simp; omega),
      length_wave, Nat.add_sub_cancel_left]
    exact wave_getElem? c red i hi
  | 2, _ =>
    rw [List.getElem?_append_right (by simp), List.length_append, length_wave, length_wave, Nat.add_sub_cancel_left]
    exact wave_getElem? c blue i hi

/-- Byte k of a block is chosen by bit 7 − (k mod 8) of channel k div 8 (R88). -/
theorem block_getElem? (c : Config) (red green blue : Half) {k : Nat} (hk : k < 24) :
    (block c red green blue)[k]? = some
      (bitByte c (([(coerce green).1, (coerce red).1, (coerce blue).1].getD (k / 8) 0).getLsbD (7 - k % 8))) := by
  have bytes := three_waves_getElem? c (coerce green).1 (coerce red).1 (coerce blue).1
    (by omega : k / 8 < 3) (Nat.mod_lt k (by decide : 0 < 8))
  rwa [Nat.div_add_mod] at bytes

/-- Settles O12: the ROM form and the direct form choose byte k by the same bit. -/
theorem blockDirectForm : Obligations.BlockDirectForm := by
  intro c red green blue
  refine ⟨length_block .., fun k hk => ⟨?_, block_getElem? c red green blue hk⟩⟩
  rw [block_getElem? c red green blue hk, blockByteDirect_eq_bitByte c red green blue hk]

/-! ### No step changes a parameter (R7, R82) -/

theorem Completes.params {i : Instr} (h : Completes i s t) : t.params = s.params := by
  cases h with
  | construct => exact (respond_params ..).trans (construct_params ..)
  | constructAndDraw => exact constructAndDraw_params ..
  | set | fill => exact writePixels_params ..
  | draw => exact drawFrame_params ..
  | configure => exact sendConfigure_params ..

theorem RunsTo.params (h : RunsTo r t) : t.params = r.params := by
  cases h with
  | faulted => exact raiseFault_params ..
  | held => exact holdCommand_params ..
  | completed completes => exact completes.params

/-- A step resets, idles, or runs one word, and none of them changes a parameter. -/
theorem step_params (h : step s = .next t) : t.params = s.params := by
  cases running : s.rst with
  | true =>
    obtain rfl : s.powerOn = t := Host.Outcome.next.inj ((if_pos running).symm.trans h)
    exact powerOn_params s
  | false =>
    obtain rfl | ⟨_, _, runs, reached⟩ := idle_or_runsTo_of_step running h
    · rfl
    · exact reached.params.trans runs.registersKept.params

/-- Settles O49: the ROM is a function of the parameters, which every step keeps. -/
theorem parametersNeverChange : Obligations.ParametersNeverChange := fun _ _ h =>
  ⟨step_params h, fun v i => by rw [step_params h]⟩

/-! ### The bytes of a waveform (R81) -/

/-- Bit j of a byte, by division. -/
theorem getLsbD_iff_div_mod {w : Nat} (v : BitVec w) (j : Nat) : v.getLsbD j = true ↔ v.toNat / 2 ^ j % 2 = 1 := by
  rw [← BitVec.testBit_toNat, Nat.testBit_eq_decide_div_mod_eq, decide_eq_true_iff]

/-- Settles O9: a waveform's byte i and the ROM's are chosen by the same bit, here found by division. -/
theorem waveformByteIsBit : Obligations.WaveformByteIsBit := by
  refine fun c v => ⟨length_wave c v, fun i => ⟨?_, ?_⟩⟩
  · rw [wave_getElem? c v i i.isLt, romByte_eq_bitByte]
  · simp only [romByte, getLsbD_iff_div_mod]

/-! ### Coercion (R85) -/

/-- A channel in 0..255 has its value in its low byte. -/
theorem toNat_setWidth_of_channel {x : Half} (h : 0 ≤ x.toInt ∧ x.toInt ≤ 255) :
    ((x.setWidth 8).toNat : Int) = x.toInt := by
  obtain ⟨low, high⟩ := h
  rw [BitVec.toNat_setWidth]
  rw [BitVec.toInt_eq_toNat_cond] at low high ⊢
  split at low <;> omega

/-- Settles O11: in range by the low byte, out of range by the constant 255. -/
theorem coercionRule : Obligations.CoercionRule := by
  refine fun x => ⟨fun inside => ?_, fun outside => ?_⟩
  · rw [coerce_in_range inside]
    exact ⟨toNat_setWidth_of_channel inside, rfl⟩
  · rw [coerce_out_of_range outside]
    exact ⟨rfl, rfl⟩

end Sys2Proof.Machine

/-! The statements of 41_construction.md: the state that CONSTRUCT leaves, without AUTODRAW (R90, R92, R93) and with it
(R91), and STATUS in it (R94). -/

namespace Sys2Proof.Machine

variable {s t : State}

/-! ### The blank buffer (R92, R93) -/

theorem read_blankBuffer_of_lt (c : Config) {n a : Nat} (pixel : a < 24 * n) :
    (blankBuffer c n).read a = some c.zeroByte := by
  rw [read_blankBuffer, if_pos pixel]

theorem read_blankBuffer_trailer (c : Config) (n : Nat) : (blankBuffer c n).read (24 * n) = some 0x00 := by
  rw [read_blankBuffer, if_neg (Nat.lt_irrefl _), if_pos rfl]

theorem read_blankBuffer_of_gt (c : Config) {n a : Nat} (beyond : 24 * n < a) : (blankBuffer c n).read a = none := by
  rw [read_blankBuffer, if_neg beyond.not_gt, if_neg beyond.ne']

/-! ### CONSTRUCT completes (R90, R91) -/

/-- Settles O18: CONSTRUCT passes its checks, and the state it completes in holds the blank buffer. -/
theorem constructCompletes : Obligations.ConstructCompletes := by
  intro n s fresh low high
  have completes : Completes (.construct false n) s (respond .none 0 (construct n s)) := .construct fresh low high
  exact ⟨_, exec_of_completes completes, rfl, rfl, rfl, fun _ => read_blankBuffer_of_lt _,
    read_blankBuffer_trailer .., fun _ => read_blankBuffer_of_gt _, wf_blankBuffer .., respond_answered ..,
    rfl, rfl, rfl, rfl, rfl, rfl, rfl, rfl, ⟨rfl, rfl⟩⟩

/-- The frame that CONSTRUCT with AUTODRAW transmits is the one a DRAW after it would send: the blank frame. -/
theorem frame_constructAndDraw (n : Half) (s : State) : (constructAndDraw n s).frame =
    List.replicate (24 * n.toNat) s.params.zeroByte ++ [0x00] := bytesBelow_blankBuffer ..

/-- The Configure event stands before the Write event (R163). -/
theorem trace_constructAndDraw (n : Half) (s : State) : (constructAndDraw n s).trace =
    s.trace ++ [.configure .msbFirst s.params.spiClockKhz, .write (constructAndDraw n s).frame] :=
  List.append_assoc ..

/-- Settles O19: as O18; the trace gains the Configure event and then the blank frame. -/
theorem constructAutodrawCompletes : Obligations.ConstructAutodrawCompletes := by
  intro n s fresh low high done
  have completes : Completes (.construct true n) s (constructAndDraw n s.served) :=
    .constructAndDraw fresh low high done
  exact ⟨_, exec_of_completes completes, rfl, rfl, fun _ => read_blankBuffer_of_lt _, read_blankBuffer_trailer ..,
    fun _ => read_blankBuffer_of_gt _, trace_constructAndDraw .., frame_constructAndDraw .., rfl, rfl,
    respond_answered .., rfl, rfl, rfl, rfl, rfl, ⟨rfl, rfl⟩⟩

/-! ### STATUS after CONSTRUCT (R94) -/

theorem Completes.construct_buf {autoDraw : Bool} {n : Half} (h : Completes (.construct autoDraw n) s t) :
    t.buf = blankBuffer s.params n.toNat := by
  cases h with
  | construct => exact (respond_buf ..).trans (construct_buf ..)
  | constructAndDraw => exact constructAndDraw_buf ..

/-- Nothing was configured or drawn before CONSTRUCT (R25), so AUTODRAW alone decides CONFIGURED and DRAWN. -/
theorem Completes.construct_flags {autoDraw : Bool} {n : Half} (h : Completes (.construct autoDraw n) s t)
    (hi : RunInv s) : t.constructed = true ∧ t.configured = autoDraw ∧ t.drawn = autoDraw := by
  cases h with
  | construct fresh => exact ⟨rfl, hi.idle_before fresh⟩
  | constructAndDraw => exact ⟨rfl, rfl, rfl⟩

/-- STATUS as its two halves that R94 names: CAUSE with FAULT above, and the three flags below. -/
theorem statusWord_eq_append (s : State) : s.statusWord = 0#8 ++ (s.cause.code ++ BitVec.ofBool s.fault) ++
    (BitVec.ofBool s.drawn ++ BitVec.ofBool s.configured ++ BitVec.ofBool s.constructed) := by
  simp only [State.statusWord, BitVec.append_assoc, BitVec.cast_eq]

/-- STATUS[7:3]. -/
theorem extractLsb'_statusWord_fault_cause (s : State) : s.statusWord.extractLsb' 3 5 =
    s.cause.code ++ BitVec.ofBool s.fault := by
  rw [statusWord_eq_append, BitVec.extractLsb'_append_eq_of_le (by omega), BitVec.extractLsb'_append_eq_right]

theorem flags_of_autoDraw (autoDraw : Bool) :
    BitVec.ofBool autoDraw ++ BitVec.ofBool autoDraw ++ BitVec.ofBool true =
      if autoDraw = true then 0b111#3 else 0b001#3 := by
  cases autoDraw <;> rfl

/-- CONSTRUCT keeps the upper half of STATUS and leaves one of two values in the lower. -/
theorem Completes.construct_statusWord {autoDraw : Bool} {n : Half} (h : Completes (.construct autoDraw n) s t)
    (hi : RunInv s) : t.statusWord = 0#8 ++ (s.cause.code ++ BitVec.ofBool s.fault) ++
      (if autoDraw = true then 0b111#3 else 0b001#3) := by
  obtain ⟨constructed, configured, drawn⟩ := h.construct_flags hi
  obtain ⟨fault, cause⟩ := h.fault_cause
  rw [statusWord_eq_append, constructed, configured, drawn, fault, cause, flags_of_autoDraw]

/-- Without AUTODRAW, CONSTRUCT hands nothing to the serial interface. -/
theorem serialDone_construct_false (n : Half) (s : State) : serialDone (.construct false n) s = true := by
  simp [serialDone, configuresOf, frameBytesOf, accepts_zero]

theorem cause_eq_none_of_fault_eq_false (hi : RunInv s) (clean : s.fault = false) : s.cause = .none := by
  by_contra known
  simp [hi.cause_known.mpr known] at clean

/-- Settles O20, by the two halves of STATUS; bit 3, in the upper one, tells whether an earlier command faulted. -/
theorem statusAfterConstruct : Obligations.StatusAfterConstruct := by
  intro autoDraw n s t hi runs checks accepted
  have done : serialDone (.construct autoDraw n) s = true := by
    cases autoDraw with
    | true => exact accepted rfl
    | false => exact serialDone_construct_false n s
  have completes := completes_of_serialDone checks done runs
  have word := completes.construct_statusWord hi
  obtain ⟨fault, cause⟩ := completes.fault_cause
  rw [completes.construct_buf]
  refine ⟨fun _ => read_blankBuffer_of_lt _, read_blankBuffer_trailer .., ?low, ?high, ⟨?clean, ?only⟩, ?stale⟩
  case low => rw [word, BitVec.extractLsb'_append_eq_right]
  case high => rw [extractLsb'_statusWord_fault_cause, extractLsb'_statusWord_fault_cause, fault, cause]
  case clean =>
    intro same
    have bit3 : t.statusWord.getLsbD 3 = s.fault := (getLsbD_statusWord t 3).trans fault
    rw [← bit3, same]
    cases autoDraw <;> rfl
  case only =>
    intro clean
    rw [word, clean, cause_eq_none_of_fault_eq_false hi clean]
    cases autoDraw <;> rfl
  case stale =>
    intro faulted known plain
    rw [word, faulted, known, plain]
    rfl

end Sys2Proof.Machine

/-! The statements of 42_pixel_writes.md: SET and FILL complete (R100, R103, R104), reversed arguments (R105), what a
pixel write leaves alone (R102, R106, R107), the sequencer's form (R108), and the addresses of a slot (R109). -/

namespace Sys2Proof.Machine

variable {s t : State}

/-! ### SET and FILL complete (R100, R103, R104) -/

/-- Settles O21: SET passes its checks, and its one slot is written. -/
theorem setCompletes : Obligations.SetCompletes := by
  intro index red green blue s built inside canonical
  have named : index.toNat ≤ index.toNat ∧ index.toNat < index.toNat + 1 := by omega
  exact ⟨_, exec_of_completes (.set built inside), fun k hk => writePixels_read s canonical _ _ _ _ _ _ k named hk,
    writePixels_bufferKeptOutside s canonical _ _ _ _ _, writePixels_wf s canonical .., writePixels_trace ..,
    writePixels_answered .., writePixels_registersKept .., writePixels_serial .., writePixels_inputsKept ..⟩

/-- Settles O22: FILL passes its checks, and the slots from the lower bound to the higher are written. -/
theorem fillCompletes : Obligations.FillCompletes := by
  intro hasStart hasEnd start stop red green blue s first last built canonical first_eq last_eq inside₁ inside₂
  have completes := Completes.fill (red := red) (green := green) (blue := blue) built first_eq.symm last_eq.symm
    inside₁ inside₂
  have past : 24 * (min first last + (max first last + 1 - min first last)) = 24 * max first last + 24 := by omega
  exact ⟨_, exec_of_completes completes,
    fun p low high k hk => writePixels_read s canonical _ _ _ _ _ p k ⟨low, by omega⟩ hk,
    past ▸ writePixels_bufferKeptOutside s canonical _ _ _ _ _, writePixels_wf s canonical .., writePixels_trace ..,
    writePixels_answered .., writePixels_registersKept .., writePixels_serial .., writePixels_inputsKept ..⟩

/-- Settles O23: the bounds enter the range check and the normalised range symmetrically. -/
theorem fillReversedArguments : Obligations.FillReversedArguments := by
  intro start stop red green blue s
  simp only [exec, execFill, fillStart, fillEnd, if_true, or_comm, min_comm, max_comm]

/-! ### The slots a pixel write names (R102) -/

/-- The lowest and the highest slot that a SET or FILL names in a state (R102, R104). -/
inductive NamesSlots (s : State) : Instr → Nat → Nat → Prop where
  | set {index red green blue : Half} : NamesSlots s (.set index red green blue) index.toNat index.toNat
  | fill {hasStart hasEnd : Bool} {start stop red green blue : Half} :
      NamesSlots s (.fill hasStart hasEnd start stop red green blue)
        (min (fillStart hasStart start) (fillEnd hasEnd stop s.frameSize.toNat))
        (max (fillStart hasStart start) (fillEnd hasEnd stop s.frameSize.toNat))

theorem NamesSlots.writesPixels {i : Instr} {first last : Nat} (names : NamesSlots s i first last) :
    writesPixels i = true := by
  cases names <;> rfl

theorem exists_namesSlots {i : Instr} (pixel : writesPixels i = true) (s : State) :
    ∃ first last, NamesSlots s i first last := by
  cases i with
  | construct | draw | configure => cases pixel
  | set => exact ⟨_, _, .set⟩
  | fill => exact ⟨_, _, .fill⟩

/-- A pixel write that completes writes one block to each slot it names, all of them below N. -/
theorem Completes.eq_writePixels {i : Instr} {first last : Nat} (h : Completes i s t)
    (names : NamesSlots s i first last) : ∃ (count : Nat) (red green blue : Half),
      t = writePixels first count red green blue s ∧ first + count = last + 1 ∧ last < s.frameSize.toNat := by
  cases names with
  | set =>
    cases h with
    | set built inside => exact ⟨_, _, _, _, rfl, rfl, inside⟩
  | fill =>
    cases h with
    | fill built first_eq last_eq inside₁ inside₂ =>
      subst first_eq last_eq
      exact ⟨_, _, _, _, rfl, by omega, by omega⟩

/-- What R102 allows a pixel write of the slots `first` to `last`: bytes of those slots below the trailer, and
diagnostics. -/
structure WritesOnlySlots (s t : State) (first last : Nat) : Prop where
  changed : ∀ a, t.buf.read a ≠ s.buf.read a → 24 * first ≤ a ∧ a < 24 * last + 24 ∧ a < 24 * s.frameSize.toNat
  diags : ∃ new : List Event, t.trace = s.trace ++ new ∧ ∀ e ∈ new, e.isDiag = true
  frameSize : t.frameSize = s.frameSize
  constructed : t.constructed = s.constructed
  configured : t.configured = s.configured
  drawn : t.drawn = s.drawn

theorem isDiag_of_mem_diagEvents {red green blue : Half} {e : Event} (h : e ∈ diagEvents red green blue) :
    e.isDiag = true := by
  obtain ⟨_, _, rfl, _⟩ := of_mem_diagEvents _ _ _ h
  rfl

theorem raiseFault_writesOnlySlots (cause : Cause) (s : State) (first last : Nat) :
    WritesOnlySlots s (raiseFault cause s) first last where
  changed _ changed := absurd rfl changed
  diags := ⟨[], by simp, nofun⟩
  frameSize := rfl
  constructed := rfl
  configured := rfl
  drawn := rfl

theorem writePixels_writesOnlySlots (canonical : s.buf.wf) {first count last : Nat} (red green blue : Half)
    (range : first + count = last + 1) (inside : last < s.frameSize.toNat) :
    WritesOnlySlots s (writePixels first count red green blue s) first last where
  changed a changed := by
    have named : 24 * first ≤ a ∧ a < 24 * (first + count) := by
      by_contra outside
      exact changed (writePixels_bufferKeptOutside s canonical first count red green blue a outside)
    omega
  diags := ⟨diagEvents red green blue, rfl, fun _ => isDiag_of_mem_diagEvents⟩
  frameSize := rfl
  constructed := rfl
  configured := rfl
  drawn := rfl

/-- A SET or FILL raises a fault, which changes no byte, or writes the slots it names. -/
theorem exec_writesOnlySlots {i : Instr} {first last : Nat} (names : NamesSlots s i first last)
    (canonical : s.buf.wf) (h : exec i s = .next t) : WritesOnlySlots s t first last := by
  rcases exec_cases h with ⟨_, rfl⟩ | ⟨_, waits, _⟩ | ⟨_, completes⟩
  · exact raiseFault_writesOnlySlots ..
  · simp [waitsOnSerial_of_writesPixels names.writesPixels] at waits
  · obtain ⟨count, red, green, blue, rfl, range, inside⟩ := completes.eq_writePixels names
    exact writePixels_writesOnlySlots canonical red green blue range inside

/-- Settles O24, by what a SET or FILL may change. -/
theorem pixelWritesTouchNamedSlotsOnly : Obligations.PixelWritesTouchNamedSlotsOnly := by
  intro i s t first last canonical named h
  have names : NamesSlots s i first last := by
    rcases named with ⟨_, _, _, _, rfl, rfl, rfl⟩ | ⟨_, _, _, _, _, _, _, rfl, rfl, rfl⟩
    · exact .set
    · exact .fill
  obtain ⟨changed, diags, frameSize, constructed, configured, drawn⟩ := exec_writesOnlySlots names canonical h
  exact ⟨changed, diags, frameSize, constructed, configured, drawn⟩

/-- Settles O26: a changed byte lies below the trailer, so the trailer reads as the invariant has it. -/
theorem trailerNeverWritten : Obligations.TrailerNeverWritten := by
  intro i s t hi built pixel h
  obtain ⟨first, last, names⟩ := exists_namesSlots ((writesPixels_iff i).mpr pixel) s
  have only := exec_writesOnlySlots names hi.canonical h
  have below : ∀ a, t.buf.read a ≠ s.buf.read a → a < 24 * s.frameSize.toNat := by
    intro a changed
    obtain ⟨_, _, below⟩ := only.changed a changed
    exact below
  refine ⟨fun a changed => Nat.le_sub_one_of_lt (below a changed), ?_⟩
  rw [only.frameSize, ← hi.trailer built]
  exact not_imp_comm.mp (below _) (Nat.lt_irrefl _)

/-! ### SET and FILL fault on a slot at or above N (R106, R109) -/

theorem exec_set_of_outside (built : s.constructed = true) {index : Half}
    (outside : s.frameSize.toNat ≤ index.toNat) (red green blue : Half) :
    exec (.set index red green blue) s = .next (raiseFault .indexRange s) := by
  have cause : faultOf (.set index red green blue) s = .indexRange := by simp [faultOf, built, outside]
  rw [exec_of_faultOf (by rw [cause]; nofun), cause]

theorem exec_fill_of_outside (built : s.constructed = true) {hasStart hasEnd : Bool} {start stop : Half}
    (outside : s.frameSize.toNat ≤ fillStart hasStart start ∨
      s.frameSize.toNat ≤ fillEnd hasEnd stop s.frameSize.toNat) (red green blue : Half) :
    exec (.fill hasStart hasEnd start stop red green blue) s = .next (raiseFault .fillRange s) := by
  have cause : faultOf (.fill hasStart hasEnd start stop red green blue) s = .fillRange := by
    rcases outside with start_outside | end_outside
    · simp [faultOf, built, start_outside]
    · simp [faultOf, built, end_outside]
  rw [exec_of_faultOf (by rw [cause]; nofun), cause]

/-- Settles O25: a failed check raises its fault, which leaves the buffer and the trace. -/
theorem faultedWriteChangesNoByte : Obligations.FaultedWriteChangesNoByte := by
  intro s red green blue
  refine ⟨fun index built outside => ?_, fun hasStart hasEnd start stop built outside => ?_,
    fun i t _ bad h => ?_⟩
  · exact ⟨_, exec_set_of_outside built outside .., raiseFault_answered .., rfl, rfl, rfl, rfl⟩
  · exact ⟨_, exec_fill_of_outside built outside .., raiseFault_answered .., rfl, rfl, rfl, rfl⟩
  · obtain rfl : _ = t := Host.Outcome.next.inj ((exec_of_faultOf bad).symm.trans h)
    exact ⟨raiseFault_buf .., raiseFault_trace ..⟩

/-- Settles O29: N is at most MAX_PIXELS, whose buffer ADDR_W bits address, and at most 0xFFFF. -/
theorem slotAddressesExact : Obligations.SlotAddressesExact := by
  intro s hi built
  refine ⟨fun index inside => ?_, fun _ _ _ _ outside => ?_, fun _ _ _ => ?_, fun _ _ _ _ _ _ _ outside => ?_⟩
  · obtain ⟨_, size⟩ := hi.size built
    have fits := bufLen_le_addressSpace hi built
    rw [State.bufLen, bufferLength] at fits
    omega
  · exact ⟨_, exec_set_of_outside built outside .., raiseFault_answered .., rfl, rfl, fun _ => rfl, rfl⟩
  · have outside : s.frameSize.toNat ≤ (0xFFFF : Half).toNat := Nat.le_of_lt_succ s.frameSize.isLt
    exact ⟨_, exec_set_of_outside built outside .., raiseFault_answered .., rfl, rfl, fun _ => rfl, rfl⟩
  · exact ⟨_, exec_fill_of_outside built outside .., raiseFault_answered .., rfl, rfl, fun _ => rfl, rfl⟩

/-! ### The sequencer's form of a write (R108) -/

theorem sequencerWrite_append (m : Memory) (blk : List Byte) (as more : List Nat) :
    m.sequencerWrite blk (as ++ more) = (m.sequencerWrite blk as).sequencerWrite blk more := by
  induction as generalizing m with
  | nil => rfl
  | cons a as ih => exact ih _

/-- Where the bytes chosen by SEQ_ADDR are those of a run, the sequencer writes the run. -/
theorem sequencerWrite_range' (m : Memory) (blk : List Byte) (a : Nat) (bs : List Byte)
    (chosen : ∀ k (hk : k < bs.length), blk.getD ((a + k) % 24) 0 = bs[k]) :
    m.sequencerWrite blk (List.range' a bs.length) = m.writeBytes a bs := by
  induction bs generalizing m a with
  | nil => rfl
  | cons b bs ih =>
    have here : blk.getD (a % 24) 0 = b := chosen 0 (Nat.zero_lt_succ _)
    rw [List.length_cons, List.range'_succ, Memory.sequencerWrite, Memory.writeBytes, here]
    refine ih _ _ fun k hk => ?_
    rw [Nat.add_right_comm]
    exact chosen (k + 1) (Nat.succ_lt_succ hk)

/-- Over one slot the sequencer writes the block. -/
theorem sequencerWrite_slot (m : Memory) (lo : Nat) {blk : List Byte} (hb : blk.length = 24) :
    m.sequencerWrite blk (List.range' (24 * lo) 24) = m.writeBytes (24 * lo) blk := by
  have run := sequencerWrite_range' m blk (24 * lo) blk fun k hk => by
    rw [Nat.mul_add_mod, Nat.mod_eq_of_lt (hb ▸ hk), List.getD_eq_getElem _ _ hk]
  rwa [hb] at run

/-- SEQ_ADDR passes through the first slot, then through the rest. -/
theorem sequencerAddresses_succ (lo count : Nat) : sequencerAddresses lo (count + 1) =
    List.range' (24 * lo) 24 ++ sequencerAddresses (lo + 1) count := by
  rw [sequencerAddresses, sequencerAddresses, Nat.mul_succ, Nat.mul_succ, Nat.add_comm (24 * count),
    ← List.range'_append_1]

/-- Settles O28: by induction on the count, slot by slot. -/
theorem sequencerFormAgrees : Obligations.SequencerFormAgrees := by
  intro m lo count blk hb
  induction count generalizing m lo with
  | zero => rfl
  | succ n ih =>
    rw [Memory.fillSlots, ih, sequencerAddresses_succ, sequencerWrite_append, sequencerWrite_slot m lo hb]

end Sys2Proof.Machine

/-! The statements of 43_transmit.md: the contract with the serial interface (R128), DRAW and CONFIGURE complete (R120,
R124), a held command (R122, R126), and a DRAW in progress under an interface that goes on accepting, or stalls. -/

namespace Sys2Proof.Machine

variable {s t r : State}

/-! ### The contract as a property of a trace (R123, R125, R128) -/

/-- What `SerialContract` asks of the trace while CALLER_ERR = 0. -/
structure TraceContract (extConfigured : Bool) (events : List Event) : Prop where
  at_most_one : (events.filter Event.isConfigure).length ≤ 1
  none_after_frame : events.Pairwise fun earlier later => ¬ (earlier.isWrite = true ∧ later.isConfigure = true)
  configured_first : extConfigured = false → ∀ before bytes after, events = before ++ Event.write bytes :: after →
    ∃ e ∈ before, e.isConfigure = true

theorem serialContract_iff :
    SerialContract s ↔ (s.callerErr = false → TraceContract s.params.extConfigured s.trace) where
  mp contract clean :=
    ⟨contract.at_most_one clean, contract.none_after_frame clean, contract.configured_first clean⟩
  mpr contract :=
    { at_most_one := fun clean => (contract clean).at_most_one
      none_after_frame := fun clean => (contract clean).none_after_frame
      configured_first := fun clean => (contract clean).configured_first }

/-- Neither a configure request nor a frame stands in the trace. -/
def NothingSent (events : List Event) : Prop := ∀ e ∈ events, e.isConfigure = false ∧ e.isWrite = false

/-- One more event keeps the contract where a configure request is the first handshake of all, and a frame has a
configure request before it. -/
theorem TraceContract.concat {extConfigured : Bool} {events : List Event} {e : Event}
    (contract : TraceContract extConfigured events)
    (configure : e.isConfigure = true → NothingSent events)
    (write : e.isWrite = true → extConfigured = false → ∃ x ∈ events, x.isConfigure = true) :
    TraceContract extConfigured (events ++ [e]) where
  at_most_one := by
    cases kind : e.isConfigure with
    | false => simpa [kind] using contract.at_most_one
    | true =>
      have noRequest : events.filter Event.isConfigure = [] :=
        List.filter_eq_nil_iff.mpr fun x hx => by simp [(configure kind x hx).1]
      simp [noRequest, kind]
  none_after_frame := by
    refine List.pairwise_append.mpr ⟨contract.none_after_frame, List.pairwise_singleton .., fun x hx y hy => ?_⟩
    obtain rfl := List.mem_singleton.mp hy
    rintro ⟨frame, request⟩
    simp [(configure request x hx).2] at frame
  configured_first inside before bytes after split := by
    rcases List.eq_nil_or_concat' after with rfl | ⟨rest, last, rfl⟩
    · obtain ⟨rfl, same⟩ := List.append_inj' split rfl
      obtain rfl : e = .write bytes := by simpa using same
      exact write rfl inside
    · refine contract.configured_first inside before bytes rest ?_
      rw [← List.cons_append, ← List.append_assoc] at split
      exact (List.append_inj' split rfl).1

theorem isConfigure_isWrite_of_isDiag {e : Event} (diag : e.isDiag = true) :
    e.isConfigure = false ∧ e.isWrite = false := by
  cases e with
  | diag => exact ⟨rfl, rfl⟩
  | configure | write => cases diag

/-- Diagnostics are no business of the serial interface. -/
theorem TraceContract.append_diags {extConfigured : Bool} {events new : List Event}
    (contract : TraceContract extConfigured events) (diags : ∀ e ∈ new, e.isDiag = true) :
    TraceContract extConfigured (events ++ new) := by
  induction new generalizing events with
  | nil => rwa [List.append_nil]
  | cons e new ih =>
    obtain ⟨diag, rest⟩ := List.forall_mem_cons.mp diags
    rw [List.append_cons]
    obtain ⟨noRequest, noFrame⟩ := isConfigure_isWrite_of_isDiag diag
    exact ih (contract.concat (by simp [noRequest]) (by simp [noFrame])) rest

/-! ### What each operation does to the contract -/

/-- Where neither flag is set, nothing has been sent (R26). -/
theorem nothingSent_of_flags (hi : RunInv s) (configured : s.configured = false) (drawn : s.drawn = false) :
    NothingSent s.trace := by
  intro e he
  constructor
  · by_contra sent
    simp [hi.configured_iff.mpr ⟨e, he, by simpa using sent⟩] at configured
  · by_contra sent
    simp [hi.drawn_iff.mpr ⟨e, he, by simpa using sent⟩] at drawn

theorem serialContract_noteCallerError (isError : Bool) (contract : SerialContract s) :
    SerialContract (noteCallerError isError s) := by
  rw [serialContract_iff] at contract ⊢
  intro clean
  exact contract (Bool.or_eq_false_iff.mp clean).1

theorem serialContract_emitConfigure (first : s.callerErr = false → NothingSent s.trace)
    (contract : SerialContract s) : SerialContract (emitConfigure s) := by
  rw [serialContract_iff] at contract ⊢
  exact fun clean => (contract clean).concat (fun _ => first clean) nofun

theorem serialContract_emitWrite (bytes : List Byte)
    (configured : s.callerErr = false → s.params.extConfigured = false → ∃ e ∈ s.trace, e.isConfigure = true)
    (contract : SerialContract s) : SerialContract (emitWrite bytes s) := by
  rw [serialContract_iff] at contract ⊢
  exact fun clean => (contract clean).concat nofun (fun _ => configured clean)

theorem serialContract_writePixels (lo count : Nat) (red green blue : Half) (contract : SerialContract s) :
    SerialContract (writePixels lo count red green blue s) := by
  rw [serialContract_iff] at contract ⊢
  exact fun clean => (contract clean).append_diags fun _ => isDiag_of_mem_diagEvents

/-- The response has no part in the contract. -/
theorem serialContract_respond (status : Cause) (diag : BitVec 3) (contract : SerialContract s) :
    SerialContract (respond status diag s) := { contract with }

/-- Before CONSTRUCT nothing was sent, so its configure request is the first, and stands before its frame (R25,
R163). -/
theorem serialContract_constructAndDraw {n : Half} (hi : RunInv s) (fresh : s.constructed = false)
    (contract : SerialContract s) : SerialContract (constructAndDraw n s) := by
  obtain ⟨configured, drawn⟩ := hi.idle_before fresh
  have silent : NothingSent s.trace := nothingSent_of_flags hi configured drawn
  have built : SerialContract (construct n s) := { contract with }
  have requested : SerialContract (emitConfigure (construct n s)) :=
    serialContract_emitConfigure (fun _ => silent) built
  refine serialContract_respond _ _ (serialContract_emitWrite _ (fun _ _ => ?_) requested)
  exact ⟨_, List.mem_concat_self, rfl⟩

/-- A DRAW of an interface not configured sets CALLER_ERR (R123). -/
theorem serialContract_drawFrame (hi : RunInv s) (contract : SerialContract s) : SerialContract (drawFrame s) := by
  refine serialContract_respond _ _ (serialContract_emitWrite _ ?_ (serialContract_noteCallerError _ contract))
  intro clean inside
  rw [noteCallerError_callerErr, Bool.or_eq_false_iff, State.drawIsCallerError] at clean
  rw [noteCallerError_params] at inside
  exact hi.configured_iff.mp (by simpa [inside] using clean.2)

/-- A CONFIGURE after a configure request or a frame sets CALLER_ERR (R125). -/
theorem serialContract_sendConfigure (hi : RunInv s) (contract : SerialContract s) :
    SerialContract (sendConfigure s) := by
  refine serialContract_respond _ _ (serialContract_emitConfigure ?_ (serialContract_noteCallerError _ contract))
  intro clean
  rw [noteCallerError_callerErr, Bool.or_eq_false_iff, State.configureIsCallerError, Bool.or_eq_false_iff] at clean
  obtain ⟨_, configured, drawn⟩ := clean
  exact nothingSent_of_flags (s := s) hi configured drawn

/-! ### Every step keeps the contract (R128) -/

theorem Completes.serialContract {i : Instr} (h : Completes i s t) (hi : RunInv s) (contract : SerialContract s) :
    SerialContract t := by
  have served : SerialContract s.served := { contract with }
  cases h with
  | construct => exact { contract with }
  | constructAndDraw fresh => exact serialContract_constructAndDraw (runInv_served hi) fresh served
  | set | fill => exact serialContract_writePixels _ _ _ _ _ contract
  | draw => exact serialContract_drawFrame (runInv_served hi) served
  | configure => exact serialContract_sendConfigure (runInv_served hi) served

theorem RunsTo.serialContract (h : RunsTo r t) (hi : RunInv r) (contract : SerialContract r) :
    SerialContract t := by
  cases h with
  | faulted | held => exact { contract with }
  | completed completes => exact completes.serialContract hi contract

/-- Taking a word from the command port leaves the contract (R9). -/
theorem Runs.serialContract {w : CmdWord} (runs : Runs s w r) (contract : SerialContract s) : SerialContract r := by
  cases runs with
  | resumed => exact contract
  | accepted => exact { contract with }

/-- Settles O59: reset empties the trace, and every operation that a word runs keeps the contract. -/
theorem stepKeepsSerialContract : Obligations.StepKeepsSerialContract := by
  intro s t hi contract h
  cases reset : s.rst with
  | true =>
    obtain rfl : s.powerOn = t := Host.Outcome.next.inj ((if_pos reset).symm.trans h)
    exact serialContract_of_trace_nil (powerOn_trace s)
  | false =>
    rcases idle_or_runsTo_of_step reset h with rfl | ⟨w, r, runs, runsTo⟩
    · exact contract
    · exact runsTo.serialContract (runs.runInv hi) (runs.serialContract contract)

/-! ### DRAW and CONFIGURE complete (R120, R121, R124) -/

/-- Settles O31: DRAW passes its check, and the frame it sends is the buffer's L bytes. -/
theorem drawCompletes : Obligations.DrawCompletes := by
  intro s built exist done
  have whole : s.frame.length = s.bufLen := length_bytesBelow exist
  refine ⟨_, s.frame, exec_of_completes (.draw built whole done), drawFrame_trace s.served, whole, fun a ha => ?_,
    rfl, rfl, rfl, rfl, rfl, rfl, rfl, rfl, rfl, respond_answered .., rfl, ⟨rfl, rfl⟩⟩
  rw [State.frame, bytesBelow_getElem? exist, if_pos (whole ▸ ha)]

/-- Settles O32: CONFIGURE passes its check, and its one request is recorded. -/
theorem configureCompletes : Obligations.ConfigureCompletes := by
  intro s built done
  exact ⟨_, exec_of_completes (.configure built done), sendConfigure_trace s.served, rfl, rfl, rfl, rfl, rfl, rfl,
    rfl, rfl, rfl, respond_answered .., rfl, ⟨rfl, rfl⟩⟩

/-! ### A held command (R122, R126) -/

/-- Settles O33: a held command's state differs only in the elements of `holdCommand`. -/
theorem heldCommandShowsNothing : Obligations.HeldCommandShowsNothing := by
  intro i s waits checks pending exist
  have whole : i = .draw → s.frame.length = s.bufLen := by
    rintro rfl
    have built := constructed_of_draw_checks checks
    exact length_bytesBelow fun a ha => exist a ha built
  exact ⟨_, exec_of_held checks waits pending whole, holdCommand_registersKept .., rfl, rfl, rfl, rfl, rfl,
    Nat.le_add_right .., handshakes_pending pending, holdCommand_inputsKept ..⟩

/-! ### A DRAW in progress (R122) -/

/-- Outside reset, the DRAW of word `w` is in progress, its whole frame in the buffer. -/
structure DrawInProgress (w : CmdWord) (s : State) : Prop where
  running : s.rst = false
  built : s.constructed = true
  busy : s.inFlight = some w
  isDraw : decode w = .ok .draw
  whole : s.frame.length = s.bufLen

theorem DrawInProgress.step_eq {w : CmdWord} (draw : DrawInProgress w s) : step s = exec .draw s :=
  (step_of_runs draw.running (.resumed draw.busy)).trans (runWord_of_legal draw.isDraw s)

theorem DrawInProgress.run_of_done {w : CmdWord} (draw : DrawInProgress w s) (done : serialDone .draw s = true) :
    Sys2Proof.core.run 1 s = .next (drawFrame s.served) :=
  run_succ_of_step (draw.step_eq.trans (exec_of_completes (.draw draw.built draw.whole done))) 0

theorem DrawInProgress.step_of_pending {w : CmdWord} (draw : DrawInProgress w s)
    (pending : serialDone .draw s = false) : step s = .next (holdCommand 0 s) :=
  draw.step_eq.trans (exec_of_held (by simp [faultOf, draw.built]) rfl pending fun _ => draw.whole)

theorem DrawInProgress.held {w : CmdWord} (draw : DrawInProgress w s) (configures : Nat) :
    DrawInProgress w (holdCommand configures s) := { draw with }

/-- After its stalled steps a fair interface accepts everything. -/
theorem serialDone_of_fair (fair : s.serial.fair = true) (served : s.serial.grants = []) (i : Instr) :
    serialDone i s = true := by
  simp [serialDone, SerialInput.accepts, served, fair]

/-- Each waiting step uses up a grant, and with none left the frame is accepted. -/
theorem DrawInProgress.completes {w : CmdWord} (draw : DrawInProgress w s) (fair : s.serial.fair = true) :
    ∃ k ≤ s.serial.grants.length + 1, ∃ t, Sys2Proof.core.run k s = .next t ∧
      t.trace = s.trace ++ [.write s.frame] ∧ t.drawn = true ∧ t.inFlight = none ∧ t.buf = s.buf := by
  induction grants : s.serial.grants generalizing s with
  | nil =>
    have done := serialDone_of_fair fair grants .draw
    exact ⟨1, Nat.le_refl 1, _, draw.run_of_done done, rfl, rfl, rfl, rfl⟩
  | cons grant rest ih =>
    cases done : serialDone .draw s with
    | true => exact ⟨1, Nat.le_add_left .., _, draw.run_of_done done, rfl, rfl, rfl, rfl⟩
    | false =>
      have left : (holdCommand 0 s).serial.grants = rest := congrArg List.tail grants
      obtain ⟨k, bound, t, run, sent⟩ := ih (draw.held 0) fair left
      exact ⟨k + 1, Nat.succ_le_succ bound, t, (run_succ_of_step (draw.step_of_pending done) k).trans run, sent⟩

/-- Settles O37: the invariant gives the whole frame, and the waiting steps are at most the grants. -/
theorem drawEventuallyCompletes : Obligations.DrawEventuallyCompletes := by
  intro s w hi running built busy isDraw fair
  exact DrawInProgress.completes ⟨running, built, busy, isDraw, (frame_whole hi built).1⟩ fair

/-- The interface of R122's hang: it accepts nothing, in any step. -/
def SerialInput.stalled : SerialInput := { grants := [], fair := false }

theorem accepts_stalled (k : Nat) : SerialInput.stalled.accepts k = decide (k = 0) := Bool.false_or _

/-- A stalled interface does not complete a DRAW that has a byte left. -/
theorem serialDone_draw_of_stalled (stalled : s.serial = .stalled) (left : s.accepted < s.bufLen) :
    serialDone .draw s = false := by
  rw [serialDone, stalled, accepts_stalled, decide_eq_false_iff_not, configuresOf, frameBytesOf]
  omega

/-- A waiting step with a stalled interface leaves it stalled and the byte left, and so every later step waits too. -/
theorem DrawInProgress.hangs {w : CmdWord} (draw : DrawInProgress w s) (stalled : s.serial = .stalled)
    (left : s.accepted < s.bufLen) (k : Nat) :
    ∃ t, Sys2Proof.core.run k s = .next t ∧ t.inFlight = some w ∧ t.trace = s.trace ∧ t.drawn = s.drawn ∧
      t.response = s.response ∧ t.streams = s.streams := by
  induction k generalizing s with
  | zero => exact ⟨s, rfl, draw.busy, rfl, rfl, rfl, rfl⟩
  | succ k ih =>
    have still : (holdCommand 0 s).serial = .stalled := by rw [holdCommand_serial, stalled]; rfl
    have none_more : (holdCommand 0 s).accepted < s.bufLen := by
      rw [holdCommand_accepted, stalled]
      exact left
    obtain ⟨t, run, kept⟩ := ih (draw.held 0) still none_more
    have step := draw.step_of_pending (serialDone_draw_of_stalled stalled left)
    exact ⟨t, (run_succ_of_step step k).trans run, kept⟩

/-- Settles O38, by induction on the number of steps. -/
theorem stalledDrawHangs : Obligations.StalledDrawHangs := by
  intro s w running built busy isDraw whole stalled left k
  exact DrawInProgress.hangs ⟨running, built, busy, isDraw, whole⟩ stalled left k

end Sys2Proof.Machine

/-! The statements of 60_exceptions.md: a command that faults (R142, R143), the idle block (R154), two commands at once
(R152), a block that no command stops (R142), and instances that do not interact (R151). -/

namespace Sys2Proof.Machine

variable {s : State}

/-! ### A command that faults (R142, R143) -/

/-- A word whose check fails raises that fault, illegal words before every other check. -/
theorem runWord_of_faultOfWord {w : CmdWord} (bad : faultOfWord w s ≠ .none) :
    runWord w s = .next (raiseFault (faultOfWord w s) s) := by
  cases decoded : decode w with
  | ok i =>
    have same : faultOfWord w s = faultOf i s := by rw [faultOfWord, decoded]
    rw [same] at bad ⊢
    exact (runWord_of_legal decoded s).trans (exec_of_faultOf bad)
  | error e =>
    have same : faultOfWord w s = .illegalCommand := by rw [faultOfWord, decoded]
    rw [same]
    exact runWord_of_illegal decoded s

/-- Settles O42: the word's outcome is `raiseFault`, which keeps every listed element. -/
theorem faultHasNoOtherEffect : Obligations.FaultHasNoOtherEffect := by
  intro w s bad
  exact ⟨_, runWord_of_faultOfWord bad, raiseFault_fault .., raiseFault_cause .., raiseFault_answered ..,
    raiseFault_buf .., raiseFault_frameSize .., raiseFault_constructed .., raiseFault_configured ..,
    raiseFault_drawn .., raiseFault_callerErr .., raiseFault_trace .., raiseFault_params .., raiseFault_serial ..,
    raiseFault_inputsKept ..⟩

/-! ### What a step does before it runs a word (R152, R154, R160) -/

theorem step_of_rst (reset : s.rst = true) : step s = .next s.powerOn := if_pos reset

theorem step_of_idle (running : s.rst = false) (free : s.inFlight = none) (silent : s.presented = []) :
    step s = .next s := by
  simp only [step, running, free, silent, Bool.false_eq_true, if_false]

theorem step_of_concurrent (running : s.rst = false) (free : s.inFlight = none) (two : 2 ≤ s.presented.length) :
    step s = .refused .concurrentCommands := by
  match presented : s.presented, two with
  | _ :: _ :: _, _ => simp only [step, running, free, presented, Bool.false_eq_true, if_false]

/-- A block is idle, or has one word to run, or has two commands presented to its free port. -/
theorem idle_or_runs_or_concurrent (s : State) : (s.inFlight = none ∧ s.presented = []) ∨ (∃ w r, Runs s w r) ∨
    (s.inFlight = none ∧ 2 ≤ s.presented.length) := by
  cases flight : s.inFlight with
  | some w => exact .inr (.inl ⟨w, s, .resumed flight⟩)
  | none =>
    match presented : s.presented with
    | [] => exact .inl ⟨rfl, rfl⟩
    | [w] => exact .inr (.inl ⟨w, _, .accepted flight presented⟩)
    | _ :: _ :: _ => exact .inr (.inr ⟨rfl, Nat.le_add_left ..⟩)

/-- Settles O54: the step's own idle branch. -/
theorem idleStatePersists : Obligations.IdleStatePersists := fun _ => step_of_idle

/-! ### Two commands at once (R152) -/

/-- No word is refused. -/
theorem runWord_not_refused (w : CmdWord) (s : State) (r : Refusal) : runWord w s ≠ .refused r := by
  cases decoded : decode w with
  | ok i =>
    rw [runWord_of_legal decoded]
    exact exec_not_refused i s r
  | error e =>
    rw [runWord_of_illegal decoded]
    exact nofun

/-- Settles O55: a reset, an idle step and the run of a word are not refused. -/
theorem concurrentCommandsRefused : Obligations.ConcurrentCommandsRefused := by
  refine fun s => ⟨?_, fun ⟨running, free, two⟩ => ⟨_, step_of_concurrent running free two⟩⟩
  rintro ⟨why, refused⟩
  cases reset : s.rst with
  | true => cases (step_of_rst reset).symm.trans refused
  | false =>
    rcases idle_or_runs_or_concurrent s with ⟨free, silent⟩ | ⟨w, r, runs⟩ | ⟨free, two⟩
    · cases (step_of_idle reset free silent).symm.trans refused
    · exact absurd ((step_of_runs reset runs).symm.trans refused) (runWord_not_refused w r why)
    · exact ⟨rfl, free, two⟩

/-! ### No command stops the block (R142) -/

/-- Only a DRAW of a constructed block can lack a next state, and in the invariant its frame is whole. -/
theorem exists_exec_eq_next (hi : RunInv s) (i : Instr) : ∃ t, exec i s = .next t := by
  cases i with
  | construct | set | fill | configure => exact ⟨_, rfl⟩
  | draw =>
    cases built : s.constructed with
    | false => exact ⟨_, exec_of_faultOf (by simp [faultOf, built])⟩
    | true =>
      have whole := (frame_whole hi built).1
      exact ⟨transfer 0 s.bufLen drawFrame s, by simp [exec, execDraw, built, whole]⟩

theorem exists_runWord_eq_next (hi : RunInv s) (w : CmdWord) : ∃ t, runWord w s = .next t := by
  cases decoded : decode w with
  | ok i => exact runWord_of_legal decoded s ▸ exists_exec_eq_next hi i
  | error e => exact ⟨_, runWord_of_illegal decoded s⟩

/-- Settles O56: a reset and an idle step reach a next state, and so does every word in a state of the invariant. -/
theorem noCommandStopsTheBlock : Obligations.NoCommandStopsTheBlock := by
  intro s hi
  cases reset : s.rst with
  | true => exact .inl ⟨_, step_of_rst reset⟩
  | false =>
    rcases idle_or_runs_or_concurrent s with ⟨free, silent⟩ | ⟨w, r, runs⟩ | ⟨free, two⟩
    · exact .inl ⟨s, step_of_idle reset free silent⟩
    · exact .inl (step_of_runs reset runs ▸ exists_runWord_eq_next (runs.runInv hi) w)
    · exact .inr ⟨step_of_concurrent reset free two, two⟩

/-! ### Several instances (R151) -/

/-- A system that reaches a next state holds the next state of block k in place k. -/
theorem systemStep_eq_next {sys sys' : System} {k : Fin sys.length} (h : systemStep sys k = .next sys') :
    ∃ t, step sys[k] = .next t ∧ sys' = sys.set k t := by
  rw [systemStep] at h
  split at h
  · next t stepped => exact ⟨t, stepped, (Host.Outcome.next.inj h).symm⟩
  · cases h
  · cases h

/-- Settles O60: the step replaces one element of the list. -/
theorem instancesDoNotInteract : Obligations.InstancesDoNotInteract := by
  intro sys sys' k j h other
  obtain ⟨t, _, rfl⟩ := systemStep_eq_next h
  exact ⟨List.getElem?_set_ne other.symm, List.length_set⟩

end Sys2Proof.Machine

/-! The statements of 70_reset_and_hazards.md: power-on reset (R160), the commands that come before CONSTRUCT (R161),
and a DRAW that reads what a SET wrote (R167). -/

namespace Sys2Proof.Machine

variable {s t : State}

/-! ### The frame that a DRAW reads after a SET (R50, R121, R167) -/

/-- Byte a of a constructed block's frame is the byte at address a (R121). -/
theorem frame_getElem? (hi : RunInv s) (built : s.constructed = true) {a : Nat} (ha : a < s.bufLen) :
    s.frame[a]? = s.buf.read a := by
  rw [State.frame, bytesBelow_getElem? (fun x hx => (hi.extent built x).mpr hx), if_pos ha]

/-- Every address of a slot below N is an address of the buffer (R43). -/
theorem slot_address_lt_bufLen {p k : Nat} (hp : p < s.frameSize.toNat) (hk : k < 24) : 24 * p + k < s.bufLen := by
  rw [State.bufLen, bufferLength]
  omega

/-- A SET of a valid index has one outcome (R100). -/
theorem eq_writePixels_of_exec_set (built : s.constructed = true) {index red green blue : Half}
    (inside : index.toNat < s.frameSize.toNat) (h : exec (.set index red green blue) s = .next t) :
    t = writePixels index.toNat 1 red green blue s :=
  Host.Outcome.next.inj (h.symm.trans (exec_of_completes (.set built inside)))

/-- A DRAW of a constructed block whose transfers are accepted records the frame (R120). -/
theorem trace_of_exec_draw (built : s.constructed = true) (done : serialDone .draw s = true)
    (h : exec .draw s = .next t) : t.trace = s.trace ++ [.write s.frame] := by
  have checks : faultOf .draw s = .none := by simp [faultOf, built]
  cases completes_of_serialDone checks done h with
  | draw => exact drawFrame_trace s.served

section
variable {lo count : Nat} (hi : RunInv s) (built : s.constructed = true) (inside : lo + count ≤ s.frameSize.toNat)
include hi built inside

/-- A pixel write keeps the length of the frame (R121). -/
theorem length_frame_writePixels (red green blue : Half) :
    (writePixels lo count red green blue s).frame.length = s.bufLen :=
  (frame_whole (runInv_writePixels red green blue hi built inside) built).1

/-- After a pixel write the frame carries its block in every slot that it names (R100, R103). -/
theorem frame_writePixels_getElem?_of_named (red green blue : Half) {p k : Nat} (named : lo ≤ p ∧ p < lo + count)
    (hk : k < 24) :
    (writePixels lo count red green blue s).frame[24 * p + k]? = (block s.params red green blue)[k]? := by
  have address : 24 * p + k < s.bufLen := slot_address_lt_bufLen (by omega) hk
  rw [frame_getElem? (runInv_writePixels red green blue hi built inside) built address,
    writePixels_read s hi.canonical lo count red green blue p k named hk]

/-- After a pixel write the frame carries every other byte as it stood (R102). -/
theorem frame_writePixels_getElem?_of_outside (red green blue : Half) {a : Nat} (ha : a < s.bufLen)
    (outside : ¬ (24 * lo ≤ a ∧ a < 24 * (lo + count))) :
    (writePixels lo count red green blue s).frame[a]? = s.buf.read a := by
  rw [frame_getElem? (runInv_writePixels red green blue hi built inside) built ha,
    writePixels_bufferKeptOutside s hi.canonical lo count red green blue a outside]

end

/-- Settles O39: the DRAW records the frame, and in the frame the SET changed its one slot. -/
theorem drawSendsWhatSetWrote : Obligations.DrawSendsWhatSetWrote := by
  intro index red green blue s t u hi built inside setRuns done drawRuns
  obtain rfl := eq_writePixels_of_exec_set built inside setRuns
  have sent := trace_of_exec_draw ((writePixels_constructed ..).trans built) done drawRuns
  refine ⟨_, sent, length_frame_writePixels hi built inside red green blue, fun k hk => ?_, fun a ha outside => ?_⟩
  · exact frame_writePixels_getElem?_of_named hi built inside red green blue ⟨Nat.le_refl _, Nat.lt_succ_self _⟩ hk
  · exact frame_writePixels_getElem?_of_outside hi built inside red green blue ha outside

/-! ### Before CONSTRUCT (R25, R161) -/

/-- CONSTRUCT of an unconstructed block, its frame size in range and its transfers accepted, completes (R90). -/
theorem exists_completes_construct {autoDraw : Bool} {n : Half} (fresh : s.constructed = false) (low : 1 ≤ n.toNat)
    (high : n.toNat ≤ s.params.maxPixels)
    (done : autoDraw = true → serialDone (.construct autoDraw n) s = true) :
    ∃ t, Completes (.construct autoDraw n) s t := by
  cases autoDraw with
  | false => exact ⟨_, .construct fresh low high⟩
  | true => exact ⟨_, .constructAndDraw fresh low high (done rfl)⟩

/-- A CONSTRUCT that completes answers without a diagnostic and sets CONSTRUCTED (R90, R91). -/
theorem Completes.construct_answered {autoDraw : Bool} {n : Half} (h : Completes (.construct autoDraw n) s t) :
    Answered .none 0 t ∧ t.constructed = true := by
  cases h with
  | construct => exact ⟨respond_answered .., rfl⟩
  | constructAndDraw => exact ⟨respond_answered .., rfl⟩

/-- Every command but CONSTRUCT checks for construction first (R143, R161). -/
theorem faultOf_of_unconstructed (fresh : s.constructed = false) {i : Instr}
    (other : ∀ autoDraw n, i ≠ .construct autoDraw n) : faultOf i s = .notConstructed := by
  cases i with
  | construct autoDraw n => exact absurd rfl (other autoDraw n)
  | set | fill | draw | configure => exact if_pos fresh

/-- Settles O17: CONSTRUCT passes its checks, and every other command fails its first one. -/
theorem onlyConstructSucceedsFirst : Obligations.OnlyConstructSucceedsFirst := by
  intro s fresh
  refine ⟨fun autoDraw n low high done => ?_, fun i other => ?_⟩
  · obtain ⟨t, completes⟩ := exists_completes_construct fresh low high done
    exact ⟨t, exec_of_completes completes, completes.construct_answered⟩
  · have bad := faultOf_of_unconstructed fresh other
    have faults : exec i s = .next (raiseFault .notConstructed s) :=
      bad ▸ exec_of_faultOf (bad.trans_ne nofun)
    exact ⟨_, faults, raiseFault_answered .., raiseFault_fault .., raiseFault_cause .., fresh⟩

/-! ### Power-on reset (R160) -/

/-- While `rst` is asserted no response is given (R160). -/
theorem responseGiven_of_rst (reset : s.rst = true) (t : State) : responseGiven s t = none := by
  simp [responseGiven, reset]

/-- Between commands the block offers no handshake to the serial interface (R34). -/
theorem offeredBeat_of_idle (free : s.inFlight = none) : s.offeredBeat = none := by
  rw [State.offeredBeat, free]

theorem cfgValid_of_idle (free : s.inFlight = none) : s.cfgValid = false := by
  rw [State.cfgValid, offeredBeat_of_idle free]

theorem txValid_of_idle (free : s.inFlight = none) : s.txValid = false := by
  rw [State.txValid, offeredBeat_of_idle free]

/-- STATUS reads 0 after reset (R34, R160). -/
theorem powerOn_statusWord (s : State) : s.powerOn.statusWord = 0 := by
  rw [State.statusWord, powerOn_cause, powerOn_fault, powerOn_drawn, powerOn_configured, powerOn_constructed]
  rfl

/-- Settles O16: the step is `powerOn`, which holds the reset values and keeps the parameters and the serial input. -/
theorem powerOnReset : Obligations.PowerOnReset := by
  intro s reset
  have free := powerOn_inFlight s
  exact ⟨_, step_of_rst reset, powerOn_constructed .., powerOn_frameSize .., powerOn_configured ..,
    powerOn_drawn .., powerOn_fault .., powerOn_cause .., read_nil, powerOn_trace .., powerOn_callerErr ..,
    powerOn_statusWord s, free, powerOn_accepted .., responseGiven_of_rst reset _, powerOn_response ..,
    cfgValid_of_idle free, txValid_of_idle free, powerOn_serial .., fun _ _ => rfl⟩

end Sys2Proof.Machine
